-- ==== Sys2Proof/Word.lean ====
section
/-! DEFINITION. The word types of the block (00_scope.md R7): a byte is 8 bits, a nibble 4 bits; every value is
unsigned. -/

namespace Sys2Proof

/-- A byte, 8 bits (R7). -/
abbrev Byte := BitVec 8

/-- A nibble, 4 bits (R7). -/
abbrev Nibble := BitVec 4

/-- A 16-bit word: an address header's value, `addr` and `offset` (ADDR_W = OFFSET_W = 16, R5). -/
abbrev Half := BitVec 16

end Sys2Proof
end

