-- ==== Sys2Proof/Config.lean ====
section
/-! DEFINITION. The parameters of the block (00_scope.md R5, R6) and the values the spec leaves free. -/

namespace Sys2Proof

/-- ADDR_ORDER: the byte order of the 2-byte address header (R5, 20_memory.md R56; 92 D5). -/
inductive AddrOrder where
  | le
  | be
deriving DecidableEq, Repr

/-- SHORT_READ_POLICY: what fills the chunk past a short source read (R5, 43_write_session.md R184; 92 D12). -/
inductive ShortReadPolicy where
  | draw
  | pad (v : Byte)
  | fail
deriving DecidableEq, Repr

/-- DECODE_MODE: whether a character that is no hex digit is nibble 0 or a fault (R5, 42_read_session.md R163; 92 D15). -/
inductive DecodeMode where
  | permissive
  | strict
deriving DecidableEq, Repr

/-- The parameters of R5 that the block's transitions read. ADDR_W and OFFSET_W are 16, the widths of the registers
`addr` and `offset`; FRAME_MAX is `Params.frameMax`; ERASE_EXIT_CODE is `Config.eraseExitCode`. -/
structure Params where
  chipSize : Nat
  bufferSize : Nat
  addrOrder : AddrOrder
  shortReadPolicy : ShortReadPolicy
  decodeMode : DecodeMode
  missingInputAfterCmd : Bool
deriving DecidableEq, Repr

/-- FRAME_MAX = 2 * BUFFER_SIZE (R5, R6). -/
def Params.frameMax (p : Params) : Nat := 2 * p.bufferSize

/-- The reference values and defaults of R5. -/
def Params.reference : Params where
  chipSize := 32768
  bufferSize := 64
  addrOrder := .le
  shortReadPolicy := .draw
  decodeMode := .permissive
  missingInputAfterCmd := false

/-- The constraints of R6, and that BUFFER_SIZE fits the register widths of 10_state.md R20 (`frame_len` 8 bits,
`chunk_len` 7 bits). DEDUCED, log 9 (safe): the widths are given for BUFFER_SIZE = 64, and 127 is the largest size they hold. -/
abbrev Params.wf (p : Params) : Prop :=
  1 ≤ p.chipSize ∧ p.chipSize ≤ 2 ^ 16 ∧ 1 ≤ p.bufferSize ∧ p.chipSize + p.bufferSize - 1 < 2 ^ 16 ∧ p.bufferSize ≤ 127

/-- `draw()` (00_scope.md R8): the n-th byte the environment chooses freely, under no law. Nothing in Lean gives it a
value. Log 8 (safe): a claim holds whatever the bytes are. -/
opaque Config.drawByte : Nat → Byte

/-- ERASE_EXIT_CODE, OPEN (R5, 60_exceptions.md R212; 92 D23): the exit code reported for the Erase stub. Log 20 (safe). -/
opaque Config.eraseExitCode : Nat

end Sys2Proof
end

