-- ==== Sys2Proof/Syntax.lean ====
section
/-! DEFINITION. The decodable input value classes of the block: one constructor per row of opcode_table.json
(30_encoding.md R93). -/

namespace Sys2Proof

/-- The three decoded formats of R80: the command byte, the address header, one frame character. -/
inductive Format where
  | cmd8
  | hdr16
  | hex8
deriving DecidableEq, Repr

/-- One constructor per row of opcode_table.json (R93). The fallback rows keep the byte they were read from; the header
rows keep the assembled 16-bit value. -/
inductive Instr where
  /-- READ, `'R'` (R144). -/
  | read
  /-- WRITE, `'W'` (R143). -/
  | write
  /-- ERASE, `'E'` (R145). -/
  | erase
  /-- UNLOCK, `'U'` (R146). -/
  | unlock
  /-- CMD_ILLEGAL: any other value of `cmd_in` (R89, R141). -/
  | cmdIllegal (cmdIn : Byte)
  /-- HDR_SERVE: a header value below CHIP_SIZE (R87, R182). -/
  | hdrServe (a : Half)
  /-- HDR_END: a header value at or above CHIP_SIZE (R87, R182). -/
  | hdrEnd (a : Half)
  | dig0
  | dig1
  | dig2
  | dig3
  | dig4
  | dig5
  | dig6
  | dig7
  | dig8
  | dig9
  | digA
  | digB
  | digC
  | digD
  | digE
  | digF
  /-- DIG_INVALID: any character that is no digit (R86, R115). -/
  | digInvalid (ch : Byte)
deriving DecidableEq, Repr

/-- The format an instruction is read in (R93). -/
def Instr.format : Instr → Format
  | .read => .cmd8
  | .write => .cmd8
  | .erase => .cmd8
  | .unlock => .cmd8
  | .cmdIllegal _ => .cmd8
  | .hdrServe _ => .hdr16
  | .hdrEnd _ => .hdr16
  | .dig0 => .hex8
  | .dig1 => .hex8
  | .dig2 => .hex8
  | .dig3 => .hex8
  | .dig4 => .hex8
  | .dig5 => .hex8
  | .dig6 => .hex8
  | .dig7 => .hex8
  | .dig8 => .hex8
  | .dig9 => .hex8
  | .digA => .hex8
  | .digB => .hex8
  | .digC => .hex8
  | .digD => .hex8
  | .digE => .hex8
  | .digF => .hex8
  | .digInvalid _ => .hex8

/-- The number of bytes of an item of each format (R80). -/
def Format.bytes : Format → Nat
  | .cmd8 => 1
  | .hdr16 => 2
  | .hex8 => 1

end Sys2Proof
end

