-- ==== Sys2Proof/WellFormed.lean ====
section
/-! DEFINITION. Which instructions are well formed: the operand of a fallback row is a value no exact row of its format
matches (30_encoding.md R93, R89, R86), and a header's class agrees with CHIP_SIZE (R87). -/

namespace Sys2Proof

/-- `b` is none of the four command codes of R81. -/
abbrev NotACommand (b : Byte) : Prop := b ≠ 0x52#8 ∧ b ≠ 0x57#8 ∧ b ≠ 0x45#8 ∧ b ≠ 0x55#8

/-- `ch` lies outside both digit ranges of R86. -/
abbrev NotADigit (ch : Byte) : Prop :=
  ¬ (0x30 ≤ ch.toNat ∧ ch.toNat ≤ 0x39) ∧ ¬ (0x41 ≤ ch.toNat ∧ ch.toNat ≤ 0x46)

/-- Well-formedness under the parameters `p`. -/
def Instr.wf (p : Params) (i : Instr) : Bool :=
  match i with
  | .cmdIllegal b => decide (NotACommand b)
  | .hdrServe a => decide (a.toNat < p.chipSize)
  | .hdrEnd a => decide (p.chipSize ≤ a.toNat)
  | .digInvalid ch => decide (NotADigit ch)
  | .read => true
  | .write => true
  | .erase => true
  | .unlock => true
  | .dig0 => true
  | .dig1 => true
  | .dig2 => true
  | .dig3 => true
  | .dig4 => true
  | .dig5 => true
  | .dig6 => true
  | .dig7 => true
  | .dig8 => true
  | .dig9 => true
  | .digA => true
  | .digB => true
  | .digC => true
  | .digD => true
  | .digE => true
  | .digF => true

end Sys2Proof
end

