-- ==== Sys2Proof/Decode.lean ====
section
/-! DEFINITION. Decoding of the three formats of 30_encoding.md (R81, R86, R87), total on any bytes, and the encoder
written from the same tables. Character codes are those of R84 (PRESUMED: the spec takes ASCII from general knowledge,
log 22). -/

namespace Sys2Proof

/-- The `cmd8` table of R81. All 8 bits are compared; every other value is CMD_ILLEGAL. -/
def decodeCmd (b : Byte) : Instr :=
  if b = 0x52#8 then .read
  else if b = 0x57#8 then .write
  else if b = 0x45#8 then .erase
  else if b = 0x55#8 then .unlock
  else .cmdIllegal b

/-- The `hex8` table of R86. Lower-case letters are not digits. -/
def decodeDigit (ch : Byte) : Instr :=
  if ch = 0x30#8 then .dig0
  else if ch = 0x31#8 then .dig1
  else if ch = 0x32#8 then .dig2
  else if ch = 0x33#8 then .dig3
  else if ch = 0x34#8 then .dig4
  else if ch = 0x35#8 then .dig5
  else if ch = 0x36#8 then .dig6
  else if ch = 0x37#8 then .dig7
  else if ch = 0x38#8 then .dig8
  else if ch = 0x39#8 then .dig9
  else if ch = 0x41#8 then .digA
  else if ch = 0x42#8 then .digB
  else if ch = 0x43#8 then .digC
  else if ch = 0x44#8 then .digD
  else if ch = 0x45#8 then .digE
  else if ch = 0x46#8 then .digF
  else .digInvalid ch

/-- Header assembly (20_memory.md R56): `h0` is the first byte received. -/
def assembleHeader (o : AddrOrder) (h0 h1 : Byte) : Half :=
  match o with
  | .le => h1 ++ h0
  | .be => h0 ++ h1

/-- The two bytes of a header value in the order they travel (R56). -/
def splitHeader (o : AddrOrder) (a : Half) : List Byte :=
  match o with
  | .le => [a.setWidth 8, (a >>> 8).setWidth 8]
  | .be => [(a >>> 8).setWidth 8, a.setWidth 8]

/-- The `hdr16` classes of R87, by an unsigned comparison with CHIP_SIZE. -/
def classifyHeader (p : Params) (a : Half) : Instr :=
  if a.toNat < p.chipSize then .hdrServe a else .hdrEnd a

/-- Why bytes are no item of a format: their number is not the format's (R89: a header of 0 or 1 bytes is illegal). -/
inductive DecodeReject where
  | wrongLength (f : Format) (len : Nat)
deriving DecidableEq, Repr

/-- The decoder: the instruction that the bytes of one item of format `f` stand for. -/
def decodeAs (p : Params) (f : Format) (bs : List Byte) : Except DecodeReject Instr :=
  match f, bs with
  | .cmd8, [b] => .ok (decodeCmd b)
  | .hdr16, [h0, h1] => .ok (classifyHeader p (assembleHeader p.addrOrder h0 h1))
  | .hex8, [ch] => .ok (decodeDigit ch)
  | f, bs => .error (.wrongLength f bs.length)

/-- The encoder: the bytes of an instruction, from the tables of R81, R56 and R85. -/
def encode (p : Params) (i : Instr) : List Byte :=
  match i with
  | .read => [0x52#8]
  | .write => [0x57#8]
  | .erase => [0x45#8]
  | .unlock => [0x55#8]
  | .cmdIllegal b => [b]
  | .hdrServe a => splitHeader p.addrOrder a
  | .hdrEnd a => splitHeader p.addrOrder a
  | .dig0 => [0x30#8]
  | .dig1 => [0x31#8]
  | .dig2 => [0x32#8]
  | .dig3 => [0x33#8]
  | .dig4 => [0x34#8]
  | .dig5 => [0x35#8]
  | .dig6 => [0x36#8]
  | .dig7 => [0x37#8]
  | .dig8 => [0x38#8]
  | .dig9 => [0x39#8]
  | .digA => [0x41#8]
  | .digB => [0x42#8]
  | .digC => [0x43#8]
  | .digD => [0x44#8]
  | .digE => [0x45#8]
  | .digF => [0x46#8]
  | .digInvalid ch => [ch]

/-- The format in which a lone 8-bit word of the opcode table is read. DESIGN CHOICE, log 14 (unsafe): an exact row beats
a fallback row, and between two exact rows (0x45, ERASE and DIG_E) or two fallback rows the command port, where the
block reads first after reset, wins. The running block never uses this: its FSM state says which format it reads. -/
def tableFormat (b : Byte) : Format :=
  match decodeCmd b with
  | .cmdIllegal _ =>
    match decodeDigit b with
    | .digInvalid _ => .cmd8
    | _ => .hex8
  | _ => .cmd8

/-- The instruction the decoder reads from a table word. A 16-bit word is laid out with its low byte first, which is the
header's byte order under the reference parameters. -/
def decodeTableWord (nbits w : Nat) : Option Instr :=
  if nbits = 8 then
    (decodeAs Params.reference (tableFormat (BitVec.ofNat 8 w)) [BitVec.ofNat 8 w]).toOption
  else if nbits = 16 then
    (decodeAs Params.reference .hdr16 [BitVec.ofNat 8 w, BitVec.ofNat 8 (w / 256)]).toOption
  else
    none

end Sys2Proof
end

