-- ==== Sys2Proof/Machine/Codec.lean ====
section
/-! DEFINITION. The hex codec (40_hex_codec.md R110 to R118): pure functions of their operands. -/

namespace Sys2Proof.Machine

/-- `is_digit` (R111). -/
def isDigit (ch : Byte) : Bool :=
  (decide (0x30 ≤ ch.toNat) && decide (ch.toNat ≤ 0x39)) || (decide (0x41 ≤ ch.toNat) && decide (ch.toNat ≤ 0x46))

/-- `enc_nib` (R112). -/
def encNib (v : Nibble) : Byte :=
  if v.toNat ≤ 9 then BitVec.ofNat 8 (0x30 + v.toNat) else BitVec.ofNat 8 (0x41 + (v.toNat - 10))

/-- `enc_byte` (R113): the high nibble's digit, then the low nibble's. -/
def encByte (b : Byte) : List Byte :=
  [encNib (b.extractLsb' 4 4), encNib (b.extractLsb' 0 4)]

/-- `encode` (R114). -/
def encodeChunk (c : List Byte) : List Byte := c.flatMap encByte

/-- `dec_digit` (R115): a character that is no digit gives 0. -/
def decDigit (ch : Byte) : Nibble :=
  if 0x30 ≤ ch.toNat ∧ ch.toNat ≤ 0x39 then BitVec.ofNat 4 (ch.toNat - 0x30)
  else if 0x41 ≤ ch.toNat ∧ ch.toNat ≤ 0x46 then BitVec.ofNat 4 (ch.toNat - 0x41 + 10)
  else 0#4

/-- A byte from its high and low nibble (R88, R116). -/
def joinNibbles (hi lo : Nibble) : Byte := (hi.setWidth 8 <<< 4) ||| lo.setWidth 8

/-- `dec_pair` (R116). -/
def decPair (hi lo : Byte) : Byte := joinNibbles (decDigit hi) (decDigit lo)

/-- `decode` (R117). An odd-length operand has no result. -/
def decodeFrame : List Byte → Option (List Byte)
  | [] => some []
  | [_] => none
  | hi :: lo :: rest => (decodeFrame rest).map (decPair hi lo :: ·)

/-- The bytes of a sequence of nibbles, high nibble first (R53, R116). -/
def packNibbles : List Nibble → List Byte
  | hi :: lo :: rest => joinNibbles hi lo :: packNibbles rest
  | _ => []

/-- `frame_digits_ok` (R118). -/
def frameDigitsOk (f : List Byte) : Bool := f.all isDigit

/-- The frame length validator's check (42_read_session.md R162): parity only. -/
def frameLenOk (n : Nat) : Bool := decide (n % 2 = 0)

end Sys2Proof.Machine
end

