-- ==== Sys2Proof/Machine/State.lean ====
section
/-! DEFINITION. The state of the block (10_state.md R20 to R32), the environment as its ports see it (20_memory.md R50 to
R58), and the state right after reset (70_reset_and_hazards.md R230). Plain data. -/

namespace Sys2Proof.Machine

/-- The FSM state register `state` (R21). `reserved k` stands for code 0x7 + k (R31). The codes are in Flags.lean. -/
inductive Phase where
  | idle
  | sendCmd
  | rdRecv
  | rdStore
  | wrHdr
  | wrFetch
  | wrSend
  | reserved (k : Fin 7)
  | done
  | fault
deriving DecidableEq, Repr

/-- The result register `status` (R28). `reserved k` stands for the codes 3..15 and 26..31, which no rule writes. -/
inductive Status where
  /-- `NONE`: no result yet. -/
  | noResult
  | ok
  | notImplemented
  | shortWriteError
  | oddFrameLengthError
  | missingInputError
  | rxError
  | shortHeaderError
  | sinkError
  | sourceError
  | illegalCommand
  | badHexDigitError
  | shortReadError
  | reserved (k : Fin 19)
deriving DecidableEq, Repr

/-- What the block sees of a TX transaction (R58). -/
inductive TxResponse where
  | written (w : Nat)
  | err
deriving DecidableEq, Repr

/-- The faults the block raises, with what the fault event records (60_exceptions.md R200). -/
inductive BlockFault where
  | shortWrite (r : TxResponse)
  | oddFrameLength (len : Nat)
  | missingInput
  | rxError
  | shortHeader (len : Nat)
  | sinkError
  | sourceError
  | illegalCommand (cmdIn : Byte)
  | badHexDigit
  | shortRead (k : Nat)
deriving DecidableEq, Repr

/-- A port request (R54, R55, R57, R58). `memWrite v` is `MemWrite(_, len v, v)`. -/
inductive Request where
  | txSend (s : List Byte)
  | rxRecv (max : Nat)
  | memWrite (v : List Byte)
  | memRead (a : Half) (n : Nat)
deriving DecidableEq, Repr

/-- An event of a run: a request issued, or the `Fault` and `Close` events of R203 and R204. -/
inductive Event where
  | request (r : Request)
  | fault (f : BlockFault)
  | close
deriving DecidableEq, Repr

/-- The environment's answer to a `TxSend` (R58). A count above the request's length stands for the whole request. -/
inductive TxAnswer where
  /-- `TxWritten(w)`: the first `w` bytes were sent. -/
  | written (w : Nat)
  /-- `TxErr`, after the first `sent` bytes were sent (a draw). -/
  | err (sent : Nat)
deriving DecidableEq, Repr

/-- The environment's answer to an `RxRecv` (R57). -/
inductive RxAnswer where
  /-- `RxGroup` of the next `n` bytes the device has sent, at most the request's size. -/
  | group (n : Nat)
  /-- `RxErr`, after the next `lost` bytes, at most the request's size, were taken from the device and lost (a draw,
  log 21). -/
  | err (lost : Nat)
deriving DecidableEq, Repr

/-- The environment's answer to a `MemWrite` (R54). -/
inductive SinkAnswer where
  | ok
  /-- `SinkErr`, after the first `appended` bytes were appended (a draw). -/
  | err (appended : Nat)
deriving DecidableEq, Repr

/-- The environment's answer to a `MemRead` (R55). The data are those of the source, not a choice. -/
inductive SrcAnswer where
  | data
  | err
deriving DecidableEq, Repr

/-- One thing the surroundings present to the block between two transitions. DESIGN CHOICE, log 1 (safe): claims quantify
over every list of inputs; log 3 (safe): a choice is cut to the range its port's contract allows. -/
inductive Input where
  /-- Reset (70_reset_and_hazards.md R231). `completed` says how much of the outstanding request the environment had
  carried out (a draw, log 17). -/
  | reset (completed : Nat)
  /-- `start` asserted with `cmd_in` and `src_present_in` (30_encoding.md R81). -/
  | start (cmdIn : Byte) (srcPresentIn : Bool)
  | tx (a : TxAnswer)
  | rx (a : RxAnswer)
  | sink (a : SinkAnswer)
  | src (a : SrcAnswer)
deriving DecidableEq, Repr

/-- A byte store: (address, byte) cells, addresses strictly rising. An unlisted address holds no byte. -/
abbrev Memory := List Host.Cell

/-- The canonical form of a byte store. No listed entry can equal what an unlisted address reads as, since that is no
byte. -/
abbrev Memory.wf (m : Memory) : Prop := m.Pairwise (fun x y => x.1 < y.1)

/-- The environment (R50), not block state (R32). -/
structure Env where
  /-- What the surroundings present next, one a step, oldest first. Empty: nothing, for as long as the machine steps. -/
  inputs : List Input
  /-- The command port's `src_present_in` line, as last driven (R81). -/
  srcPresentIn : Bool
  /-- The bytes the device has sent and the block has not received (R57). -/
  rxStream : List Byte
  /-- The bytes that have reached the device (R58). -/
  txSent : List Byte
  /-- The sink (R54). -/
  sink : Memory
  /-- The source byte string S (R55). -/
  source : Memory
deriving DecidableEq, Repr

/-- The machine: the block's registers (R20), its read-only parameters (R5, log 6), the environment, and three fields of
the model's own (`decoded`, `draws`, `trace`). -/
structure State where
  /-- The parameters; no step writes them. -/
  cfg : Params
  /-- `state` (R21). -/
  fsm : Phase
  /-- `cmd` (R22). -/
  cmd : Byte
  /-- `src_present` (R23). -/
  srcPresent : Bool
  /-- `offset` (R24). -/
  offset : Half
  /-- `addr` (R25). -/
  addr : Half
  /-- `frame` (R26): FRAME_MAX bytes. -/
  frame : List Byte
  /-- `frame_len` (R26). -/
  frameLen : BitVec 8
  /-- `chunk` (R27): BUFFER_SIZE bytes. -/
  chunk : List Byte
  /-- `chunk_len` (R27). -/
  chunkLen : BitVec 7
  /-- `status` (R28). -/
  status : Status
  /-- `closed` (R29). -/
  closed : Bool
  /-- The model's own: the nibbles decoded so far in the current receive transition (a local value of it, R8; log 10). -/
  decoded : List Nibble
  /-- The model's own: the number of free bytes drawn so far (log 8). -/
  draws : Nat
  /-- The model's own: the events of the current run, oldest first (log 18). -/
  trace : List Event
  env : Env
deriving DecidableEq, Repr

/-- Why the machine stops. Every fault of the BLOCK is a next state (R203), not one of these. -/
inductive Fault where
  /-- The `state` register holds a reserved code (R31: no transition, stuck). Raised by `advance`. Safe: no reset or step
  leads there (log 12). -/
  | reservedState (code : BitVec 4)
  /-- SEND_CMD with a `cmd` that the case of 41_dispatcher.md R142 does not list. Raised by `commandByteAnswer`. Safe: no
  reset or step leads there (log 13). -/
  | noCommandCase (cmd : Byte)
deriving DecidableEq, Repr

/-- Why an instruction is refused. -/
inductive Refusal where
  /-- Raised by an arm of `exec` for an instruction that has no meaning yet; no arm does now. Safe. -/
  | notModelled (mnemonic : String)
deriving DecidableEq, Repr

/-- The environment after reset with nothing presented and every byte store empty (log 1, log 19). -/
def Env.empty : Env where
  inputs := []
  srcPresentIn := false
  rxStream := []
  txSent := []
  sink := []
  source := []

/-- The register values of R230 under parameters `p`, beside an environment and a draw counter that reset does not touch.
The registers `cmd`, `srcPresent`, `addr`, `frame` and `chunk` have no reset value in the spec: zero is a DESIGN CHOICE,
log 5 (unsafe). -/
def State.resetWith (p : Params) (n : Nat) (e : Env) : State where
  cfg := p
  fsm := .idle
  cmd := 0x00#8
  srcPresent := false
  offset := 0#16
  addr := 0x0000#16
  frame := List.replicate p.frameMax 0x00#8
  frameLen := 0#8
  chunk := List.replicate p.bufferSize 0x00#8
  chunkLen := 0#7
  status := .noResult
  closed := false
  decoded := []
  draws := n
  trace := []
  env := e

/-- The machine right after reset, with the reference parameters (R230, R5). -/
def State.reset : State := State.resetWith Params.reference 0 Env.empty

end Sys2Proof.Machine
end

