-- ==== Sys2Proof/Machine/Flags.lean ====
section
/-! DEFINITION. The codes of `state` and `status` (10_state.md R21, R28), the derived flags, the status outputs (R30) and
the exit-code mapping (60_exceptions.md R212). -/

namespace Sys2Proof.Machine

/-- The 4-bit code of the `state` register (R21). -/
def Phase.code : Phase → BitVec 4
  | .idle => 0x0#4
  | .sendCmd => 0x1#4
  | .rdRecv => 0x2#4
  | .rdStore => 0x3#4
  | .wrHdr => 0x4#4
  | .wrFetch => 0x5#4
  | .wrSend => 0x6#4
  | .reserved k => BitVec.ofNat 4 (0x7 + k.val)
  | .done => 0xE#4
  | .fault => 0xF#4

/-- A reserved `state` code, 0x7..0xD (R31). -/
def Phase.isReserved : Phase → Bool
  | .reserved _ => true
  | _ => false

/-- The 5-bit code of the `status` register (R28). The reserved codes are 3..15, then 26..31. -/
def Status.code : Status → BitVec 5
  | .noResult => 0#5
  | .ok => 1#5
  | .notImplemented => 2#5
  | .shortWriteError => 16#5
  | .oddFrameLengthError => 17#5
  | .missingInputError => 18#5
  | .rxError => 19#5
  | .shortHeaderError => 20#5
  | .sinkError => 21#5
  | .sourceError => 22#5
  | .illegalCommand => 23#5
  | .badHexDigitError => 24#5
  | .shortReadError => 25#5
  | .reserved k => if k.val < 13 then BitVec.ofNat 5 (3 + k.val) else BitVec.ofNat 5 (13 + k.val)

/-- The status a fault writes (R200). -/
def BlockFault.status : BlockFault → Status
  | .shortWrite _ => .shortWriteError
  | .oddFrameLength _ => .oddFrameLengthError
  | .missingInput => .missingInputError
  | .rxError => .rxError
  | .shortHeader _ => .shortHeaderError
  | .sinkError => .sinkError
  | .sourceError => .sourceError
  | .illegalCommand _ => .illegalCommand
  | .badHexDigit => .badHexDigitError
  | .shortRead _ => .shortReadError

/-- `done` (R28). -/
def State.isDone (s : State) : Bool := decide (s.fsm = .done)

/-- `fault` (R28). -/
def State.isFault (s : State) : Bool := decide (s.fsm = .fault)

/-- `busy` (R28): `state` in 0x1..0x6. -/
def State.busy (s : State) : Bool := decide (1 ≤ s.fsm.code.toNat) && decide (s.fsm.code.toNat ≤ 6)

/-- The run has ended (60_exceptions.md R205). -/
def State.ended (s : State) : Bool := s.isDone || s.isFault

/-- `state_o` (R30). -/
def State.stateO (s : State) : BitVec 4 := s.fsm.code

/-- `status_o` (R30). -/
def State.statusO (s : State) : BitVec 5 := s.status.code

/-- `total_o` (R30). -/
def State.totalO (s : State) : Half := s.offset

/-- `addr_o` (R30). -/
def State.addrO (s : State) : Half := s.addr

/-- `closed_o` (R30). -/
def State.closedO (s : State) : Bool := s.closed

/-- The exit code the CLI reports for a status (R212); none for a status that ends no run. -/
def Status.exitCode (st : Status) : Option Nat :=
  if st = .ok then some 0
  else if st = .notImplemented then some Config.eraseExitCode
  else if 16 ≤ st.code.toNat then some 1
  else none

end Sys2Proof.Machine
end

