-- ==== Sys2Proof/Machine/Ops.lean ====
section
/-! DEFINITION. The named operations: byte stores, events and requests, the fault entry (60_exceptions.md R203), the
normal end (R204), the reset action (70_reset_and_hazards.md R231), and what each port does to the environment. -/

namespace Sys2Proof.Machine

/-! ### Byte stores (20_memory.md R50, R54, R55) -/

/-- The byte at address `a`, if the store holds one. -/
def Memory.read : Memory → Nat → Option Byte
  | [], _ => none
  | (k, b) :: m, a => if k = a then some b else Memory.read m a

/-- `m` with byte `b` at address `a`. -/
def Memory.write : Memory → Nat → Byte → Memory
  | [], a, b => [(a, b)]
  | (k, c) :: m, a, b =>
    if a < k then (a, b) :: (k, c) :: m
    else if a = k then (a, b) :: m
    else (k, c) :: Memory.write m a b

/-- `m` with the bytes `bs` at `a`, `a + 1`, … -/
def Memory.writeRun : Memory → Nat → List Byte → Memory
  | m, _, [] => m
  | m, a, b :: bs => Memory.writeRun (Memory.write m a b) (a + 1) bs

/-- The bytes at `a`, `a + 1`, …: at most `n`, up to the first address that holds none. -/
def Memory.readRun (m : Memory) : Nat → Nat → List Byte
  | _, 0 => []
  | a, n + 1 =>
    match Memory.read m a with
    | some b => b :: Memory.readRun m (a + 1) n
    | none => []

/-- One past the last address that holds a byte: where an append goes. -/
def Memory.endAddr : Memory → Nat
  | [] => 0
  | [(k, _)] => k + 1
  | _ :: c :: m => Memory.endAddr (c :: m)

/-- Append (R54): the bytes go after everything the store holds, in order. -/
def Memory.append (m : Memory) (bs : List Byte) : Memory := Memory.writeRun m (Memory.endAddr m) bs

/-- The store that holds the byte string `bs` at addresses 0, 1, … -/
def Memory.ofBytes (bs : List Byte) : Memory := Memory.append [] bs

/-! ### Events, requests and the ends of a run -/

/-- Issue a port request and go to the state that waits for its answer (R21, 00_scope.md R9). -/
def State.issue (s : State) (r : Request) (next : Phase) : State :=
  { s with fsm := next, trace := s.trace ++ [.request r] }

/-- Fault entry (R203), applied to the state the faulting transition started from, so that its register writes are
discarded. A transition's local value `decoded` ends with it. No return from it exists (R208). -/
def State.raise (s : State) (f : BlockFault) : State :=
  { s with
    status := f.status
    fsm := .fault
    closed := true
    decoded := []
    trace := s.trace ++ [.fault f, .close] }

/-- Normal end (R204), with the status of the rule that ends the run. -/
def State.enterDone (s : State) (st : Status) : State :=
  { s with status := st, fsm := .done, closed := true, trace := s.trace ++ [.close] }

/-! ### The environment's side of the ports -/

/-- What the block sees of a TX answer to a request of `q` (R58). -/
def TxAnswer.response (a : TxAnswer) (q : List Byte) : TxResponse :=
  match a with
  | .written w => .written (min w q.length)
  | .err _ => .err

/-- The prefix of `q` that reaches the device (R58). -/
def TxAnswer.delivered (a : TxAnswer) (q : List Byte) : List Byte :=
  match a with
  | .written w => q.take w
  | .err k => q.take k

/-- Bytes reach the device. -/
def State.deliver (s : State) (bs : List Byte) : State :=
  { s with env := { s.env with txSent := s.env.txSent ++ bs } }

/-- The bytes of an RX group of size `n` for a request of `max` (R57): the next ones the device sent. -/
def State.rxGroup (s : State) (max n : Nat) : List Byte := s.env.rxStream.take (min n max)

/-- The device bytes of that group are consumed (R57, R60). -/
def State.takeRx (s : State) (max n : Nat) : State :=
  { s with env := { s.env with rxStream := s.env.rxStream.drop (min n max) } }

/-- Bytes are appended to the sink (R54). -/
def State.appendSink (s : State) (bs : List Byte) : State :=
  { s with env := { s.env with sink := Memory.append s.env.sink bs } }

/-- The source's bytes for `MemRead(a, n)` (R55). -/
def State.readSource (s : State) (a : Half) (n : Nat) : List Byte := Memory.readRun s.env.source a.toNat n

/-- The input at the head of the list is consumed. -/
def State.withInputs (s : State) (rest : List Input) : State :=
  { s with env := { s.env with inputs := rest } }

/-- The surroundings drive the command port's `src_present_in` (30_encoding.md R81). -/
def State.present (s : State) (srcPresentIn : Bool) : State :=
  { s with env := { s.env with srcPresentIn := srcPresentIn } }

/-- The start transition's latch of the command port (41_dispatcher.md R141). -/
def State.latch (s : State) (b : Byte) : State :=
  { s with cmd := b, srcPresent := s.env.srcPresentIn }

/-! ### Reset -/

/-- The valid part of `chunk`. -/
def State.chunkBytes (s : State) : List Byte := s.chunk.take s.chunkLen.toNat

/-- The full frame a Write round sends (43_write_session.md R185). -/
def State.frameBytes (s : State) : List Byte := s.frame.take s.cfg.frameMax

/-- The outstanding request (10_state.md R21). -/
def State.outstanding (s : State) : Option Request :=
  match s.fsm with
  | .sendCmd => some (.txSend [s.cmd])
  | .rdRecv => some (.rxRecv s.cfg.frameMax)
  | .rdStore => some (.memWrite s.chunkBytes)
  | .wrHdr => some (.rxRecv 2)
  | .wrFetch => some (.memRead s.addr s.cfg.bufferSize)
  | .wrSend => some (.txSend s.frameBytes)
  | .idle => none
  | .reserved _ => none
  | .done => none
  | .fault => none

/-- What an abandoned request has done to the environment (R231: unspecified), by the draw `k` (log 17). -/
def State.abandon (s : State) (k : Nat) : State :=
  match s.outstanding with
  | some (.txSend q) => s.deliver (q.take k)
  | some (.rxRecv max) => s.takeRx max k
  | some (.memWrite v) => s.appendSink (v.take k)
  | some (.memRead _ _) => s
  | none => s

/-- The reset action (R231): every register takes its R230 value, the run and its events are discarded, nothing is
emitted. The parameters and the environment stay. -/
def State.resetAction (s : State) (k : Nat) : State :=
  State.resetWith s.cfg s.draws (s.abandon k).env

end Sys2Proof.Machine
end

