-- ==== Sys2Proof/Machine/Operands.lean ====
section
/-! DEFINITION. Operand forms (30_encoding.md R88): the bytes a transition works on, and the register writes that a frame
or a chunk makes. -/

namespace Sys2Proof.Machine

/-- A buffer whose first bytes are `new`. The bytes past them keep their contents: no rule reads them (10_state.md R26).
DEDUCED, log 16 (unsafe). -/
def overwrite (old new : List Byte) : List Byte := new ++ old.drop new.length

/-- The next decoded digit of the frame in hand. -/
def State.pushNibble (s : State) (v : Nibble) : State := { s with decoded := s.decoded ++ [v] }

/-- The register writes of R162 and R163 for the even-length group `g`, whose digits have been decoded, and the sink
append they issue. -/
def State.storeFrame (s : State) (g : List Byte) : State :=
  State.issue
    { s with
      frame := overwrite s.frame g
      frameLen := BitVec.ofNat 8 g.length
      chunk := overwrite s.chunk (packNibbles s.decoded)
      chunkLen := BitVec.ofNat 7 (g.length / 2)
      decoded := [] }
    (.memWrite (packNibbles s.decoded)) .rdStore

/-- The free bytes that fill `n` places of a chunk (R184, `Draw`). -/
def drawnBytes (first n : Nat) : List Byte := (List.range n).map (fun j => Config.drawByte (first + j))

/-- What follows a short read of `k` bytes fills the chunk with (R184): no bytes under `Fail`, which faults instead. -/
def State.fillBytes (s : State) (k : Nat) : Option (List Byte) :=
  match s.cfg.shortReadPolicy with
  | .draw => some (drawnBytes s.draws (s.cfg.bufferSize - k))
  | .pad v => some (List.replicate (s.cfg.bufferSize - k) v)
  | .fail => if k < s.cfg.bufferSize then none else some []

/-- How many free bytes that takes. -/
def State.drawsFor (s : State) (k : Nat) : Nat :=
  match s.cfg.shortReadPolicy with
  | .draw => s.cfg.bufferSize - k
  | .pad _ => 0
  | .fail => 0

/-- The register writes of R184 and R185 for the chunk `c`, with `n` free bytes used, and the frame they send. -/
def State.sendChunk (s : State) (c : List Byte) (n : Nat) : State :=
  State.issue
    { s with
      chunk := c
      chunkLen := BitVec.ofNat 7 s.cfg.bufferSize
      frame := encodeChunk c
      frameLen := BitVec.ofNat 8 s.cfg.frameMax
      draws := s.draws + n }
    (.txSend ((encodeChunk c).take s.cfg.frameMax)) .wrSend

end Sys2Proof.Machine
end

