-- ==== Sys2Proof/Machine/Command.lean ====
section
/-! DEFINITION. The `cmd8` family (41_dispatcher.md): the start transition's case for each command (R141). `start` and
`cmd_in` are read only in IDLE; in every other state a command has no effect (R147; log 11). -/

namespace Sys2Proof.Machine

/-- Latch the command, send it as the leading byte and wait for the TX answer (R141, 30_encoding.md R82). -/
def State.sendCommand (s : State) (b : Byte) : State :=
  State.issue (s.latch b) (.txSend [b]) .sendCmd

/-- READ (R144). -/
def execRead (s : State) : Host.Outcome State Fault Refusal :=
  if s.fsm = .idle then .next (s.sendCommand 0x52#8) else .next s

/-- WRITE (R143): with no source configured it raises MissingInputError here, unless MISSING_INPUT_AFTER_CMD puts the
check after the command byte (R142). -/
def execWrite (s : State) : Host.Outcome State Fault Refusal :=
  if s.fsm = .idle then
    if s.env.srcPresentIn = false ∧ s.cfg.missingInputAfterCmd = false then .next (s.raise .missingInput)
    else .next (s.sendCommand 0x57#8)
  else .next s

/-- ERASE, the stub (R145): nothing is sent. -/
def execErase (s : State) : Host.Outcome State Fault Refusal :=
  if s.fsm = .idle then .next ((s.latch 0x45#8).enterDone .notImplemented) else .next s

/-- UNLOCK (R146). -/
def execUnlock (s : State) : Host.Outcome State Fault Refusal :=
  if s.fsm = .idle then .next (s.sendCommand 0x55#8) else .next s

/-- CMD_ILLEGAL (R141, R89): nothing is latched or sent. -/
def execCmdIllegal (cmdIn : Byte) (s : State) : Host.Outcome State Fault Refusal :=
  if s.fsm = .idle then .next (s.raise (.illegalCommand cmdIn)) else .next s

end Sys2Proof.Machine
end

