-- ==== Sys2Proof/Machine/Digit.lean ====
section
/-! DEFINITION. The `hex8` family: one character of the received frame, decoded in the receive transition of RD_RECV
(40_hex_codec.md R115, 42_read_session.md R163). DESIGN CHOICE, log 10 (safe): a character's effect is its nibble, added
to the transition's local value `decoded`; `State.storeFrame` packs the nibbles into `chunk` when the frame is whole. In
no other state does the block decode a frame (log 11). -/

namespace Sys2Proof.Machine

/-- A digit of value `v` (R115), in RD_RECV. -/
def takeDigit (v : Nibble) (s : State) : Host.Outcome State Fault Refusal :=
  if s.fsm = .rdRecv then .next (s.pushNibble v) else .next s

/-- DIG_0: nibble 0x0 (R115). -/
def execDig0 (s : State) : Host.Outcome State Fault Refusal := takeDigit 0x0#4 s

/-- DIG_1: nibble 0x1 (R115). -/
def execDig1 (s : State) : Host.Outcome State Fault Refusal := takeDigit 0x1#4 s

/-- DIG_2: nibble 0x2 (R115). -/
def execDig2 (s : State) : Host.Outcome State Fault Refusal := takeDigit 0x2#4 s

/-- DIG_3: nibble 0x3 (R115). -/
def execDig3 (s : State) : Host.Outcome State Fault Refusal := takeDigit 0x3#4 s

/-- DIG_4: nibble 0x4 (R115). -/
def execDig4 (s : State) : Host.Outcome State Fault Refusal := takeDigit 0x4#4 s

/-- DIG_5: nibble 0x5 (R115). -/
def execDig5 (s : State) : Host.Outcome State Fault Refusal := takeDigit 0x5#4 s

/-- DIG_6: nibble 0x6 (R115). -/
def execDig6 (s : State) : Host.Outcome State Fault Refusal := takeDigit 0x6#4 s

/-- DIG_7: nibble 0x7 (R115). -/
def execDig7 (s : State) : Host.Outcome State Fault Refusal := takeDigit 0x7#4 s

/-- DIG_8: nibble 0x8 (R115). -/
def execDig8 (s : State) : Host.Outcome State Fault Refusal := takeDigit 0x8#4 s

/-- DIG_9: nibble 0x9 (R115). -/
def execDig9 (s : State) : Host.Outcome State Fault Refusal := takeDigit 0x9#4 s

/-- DIG_A: nibble 0xA (R115). -/
def execDigA (s : State) : Host.Outcome State Fault Refusal := takeDigit 0xA#4 s

/-- DIG_B: nibble 0xB (R115). -/
def execDigB (s : State) : Host.Outcome State Fault Refusal := takeDigit 0xB#4 s

/-- DIG_C: nibble 0xC (R115). -/
def execDigC (s : State) : Host.Outcome State Fault Refusal := takeDigit 0xC#4 s

/-- DIG_D: nibble 0xD (R115). -/
def execDigD (s : State) : Host.Outcome State Fault Refusal := takeDigit 0xD#4 s

/-- DIG_E: nibble 0xE (R115). -/
def execDigE (s : State) : Host.Outcome State Fault Refusal := takeDigit 0xE#4 s

/-- DIG_F: nibble 0xF (R115). -/
def execDigF (s : State) : Host.Outcome State Fault Refusal := takeDigit 0xF#4 s

/-- DIG_INVALID: nibble 0 under Permissive (R115), BadHexDigitError under Strict (42_read_session.md R163). -/
def execDigInvalid (_ch : Byte) (s : State) : Host.Outcome State Fault Refusal :=
  if s.fsm = .rdRecv then
    match s.cfg.decodeMode with
    | .permissive => .next (s.pushNibble 0x0#4)
    | .strict => .next (s.raise .badHexDigit)
  else .next s

end Sys2Proof.Machine
end

