-- ==== Sys2Proof/Machine/Header.lean ====
section
/-! DEFINITION. The `hdr16` family (43_write_session.md R181, R182): the effect of an assembled header value in WR_HDR.
In no other state does the block read a header (10_state.md R21; log 11). -/

namespace Sys2Proof.Machine

/-- HDR_SERVE: take the device's address and issue the source read (R181, R182). -/
def execHdrServe (a : Half) (s : State) : Host.Outcome State Fault Refusal :=
  if s.fsm = .wrHdr then
    .next (State.issue { s with addr := a } (.memRead a s.cfg.bufferSize) .wrFetch)
  else .next s

/-- HDR_END: take the device's address and end the session normally (R181, R182). -/
def execHdrEnd (a : Half) (s : State) : Host.Outcome State Fault Refusal :=
  if s.fsm = .wrHdr then .next (State.enterDone { s with addr := a } .ok) else .next s

end Sys2Proof.Machine
end

