-- ==== Sys2Proof/Machine/Dispatch.lean ====
section
/-! DEFINITION. The one dispatch of the machine: an arm for each constructor of `Instr`. -/

namespace Sys2Proof.Machine

def exec (i : Instr) (s : State) : Host.Outcome State Fault Refusal :=
  match i with
  | .read => Sys2Proof.Machine.execRead s
  | .write => Sys2Proof.Machine.execWrite s
  | .erase => Sys2Proof.Machine.execErase s
  | .unlock => Sys2Proof.Machine.execUnlock s
  | .cmdIllegal cmdIn => Sys2Proof.Machine.execCmdIllegal cmdIn s
  | .hdrServe a => Sys2Proof.Machine.execHdrServe a s
  | .hdrEnd a => Sys2Proof.Machine.execHdrEnd a s
  | .dig0 => Sys2Proof.Machine.execDig0 s
  | .dig1 => Sys2Proof.Machine.execDig1 s
  | .dig2 => Sys2Proof.Machine.execDig2 s
  | .dig3 => Sys2Proof.Machine.execDig3 s
  | .dig4 => Sys2Proof.Machine.execDig4 s
  | .dig5 => Sys2Proof.Machine.execDig5 s
  | .dig6 => Sys2Proof.Machine.execDig6 s
  | .dig7 => Sys2Proof.Machine.execDig7 s
  | .dig8 => Sys2Proof.Machine.execDig8 s
  | .dig9 => Sys2Proof.Machine.execDig9 s
  | .digA => Sys2Proof.Machine.execDigA s
  | .digB => Sys2Proof.Machine.execDigB s
  | .digC => Sys2Proof.Machine.execDigC s
  | .digD => Sys2Proof.Machine.execDigD s
  | .digE => Sys2Proof.Machine.execDigE s
  | .digF => Sys2Proof.Machine.execDigF s
  | .digInvalid ch => Sys2Proof.Machine.execDigInvalid ch s

end Sys2Proof.Machine
end

