-- ==== Sys2Proof/Machine/ReadSession.lean ====
section
/-! DEFINITION. The Read session (42_read_session.md): entry R161, the receive transition with the frame length validator
R162, decode and store R163, store-complete R164. -/

namespace Sys2Proof.Machine

/-- Read-session entry (R161). -/
def State.enterReadSession (s : State) : State :=
  State.issue { s with offset := 0#16 } (.rxRecv s.cfg.frameMax) .rdRecv

/-- The characters of a frame, one instruction each, in order (R53, R117). -/
def execFrame : List Byte → State → Host.Outcome State Fault Refusal
  | [], s => .next s
  | ch :: rest, s =>
    match exec (decodeDigit ch) s with
    | .next t => execFrame rest t
    | .fault e => .fault e
    | .refused e => .refused e

/-- Decode and store issue (R163), for an even-length group `g`. Under Strict the digits are checked first (R118). -/
def decodeAndStore (g : List Byte) (s : State) : Host.Outcome State Fault Refusal :=
  if s.cfg.decodeMode = .strict ∧ frameDigitsOk g = false then .next (s.raise .badHexDigit)
  else
    match execFrame g s with
    | .next t => .next (t.storeFrame g)
    | .fault e => .fault e
    | .refused e => .refused e

/-- The receive transition and the frame length validator (R162). The group is consumed from the transport whatever the
validator says (R203: what the environment saw stays). -/
def frameAnswer (a : RxAnswer) (s : State) : Host.Outcome State Fault Refusal :=
  match a with
  | .err k => .next ((s.takeRx s.cfg.frameMax k).raise .rxError)
  | .group n =>
    if frameLenOk (s.rxGroup s.cfg.frameMax n).length = true then
      decodeAndStore (s.rxGroup s.cfg.frameMax n) (s.takeRx s.cfg.frameMax n)
    else
      .next ((s.takeRx s.cfg.frameMax n).raise (.oddFrameLength (s.rxGroup s.cfg.frameMax n).length))

/-- `n_off` of R164: the count with this chunk's bytes. -/
def State.nextOffset (s : State) : Half := s.offset + s.chunkLen.setWidth 16

/-- Store-complete (R164): advance and loop test, on the new count. -/
def storeAnswer (a : SinkAnswer) (s : State) : State :=
  match a with
  | .err k => (s.appendSink (s.chunkBytes.take k)).raise .sinkError
  | .ok =>
    if s.cfg.chipSize ≤ s.nextOffset.toNat then
      State.enterDone { s.appendSink s.chunkBytes with offset := s.nextOffset } .ok
    else
      State.issue { s.appendSink s.chunkBytes with offset := s.nextOffset } (.rxRecv s.cfg.frameMax) .rdRecv

end Sys2Proof.Machine
end

