-- ==== Sys2Proof/Machine/WriteSession.lean ====
section
/-! DEFINITION. The Write session (43_write_session.md): entry R180, the header transition R181, fetch R184, encode and
send R185, send-complete R186. -/

namespace Sys2Proof.Machine

/-- Write-session entry (R180). `addr` keeps its earlier value. -/
def State.enterWriteSession (s : State) : State := s.issue (.rxRecv 2) .wrHdr

/-- The header transition (R181): a group of fewer than 2 bytes is a short header; two bytes are a header instruction. -/
def headerAnswer (a : RxAnswer) (s : State) : Host.Outcome State Fault Refusal :=
  match a with
  | .err k => .next ((s.takeRx 2 k).raise .rxError)
  | .group n =>
    match decodeAs s.cfg .hdr16 (s.rxGroup 2 n) with
    | .ok i => exec i (s.takeRx 2 n)
    | .error _ => .next ((s.takeRx 2 n).raise (.shortHeader (s.rxGroup 2 n).length))

/-- Fetch, then encode and send (R184, R185): the source's bytes at `addr`, and past a short read what the policy says. -/
def fetchAnswer (a : SrcAnswer) (s : State) : State :=
  match a with
  | .err => s.raise .sourceError
  | .data =>
    match s.fillBytes (s.readSource s.addr s.cfg.bufferSize).length with
    | some fill =>
      s.sendChunk (s.readSource s.addr s.cfg.bufferSize ++ fill)
        (s.drawsFor (s.readSource s.addr s.cfg.bufferSize).length)
    | none => s.raise (.shortRead (s.readSource s.addr s.cfg.bufferSize).length)

/-- Send-complete (R186). -/
def sendAnswer (a : TxAnswer) (s : State) : State :=
  if a.response s.frameBytes = .written s.cfg.frameMax then
    State.issue (s.deliver (a.delivered s.frameBytes)) (.rxRecv 2) .wrHdr
  else
    (s.deliver (a.delivered s.frameBytes)).raise (.shortWrite (a.response s.frameBytes))

end Sys2Proof.Machine
end

