-- ==== Sys2Proof/Machine/Transition.lean ====
section
/-! DEFINITION. The block's transition relation: which transition an input takes in which state (10_state.md R21), the
command-byte transition (41_dispatcher.md R142), and the placing of one opcode-table word where the block reads next. -/

namespace Sys2Proof.Machine

/-- After the command byte is sent (R142). A `cmd` the case does not list has no transition (log 13). -/
def State.dispatchCommand (s : State) : Host.Outcome State Fault Refusal :=
  if s.cmd = 0x52#8 then .next s.enterReadSession
  else if s.cmd = 0x57#8 then
    if s.cfg.missingInputAfterCmd = true ∧ s.srcPresent = false then .next (s.raise .missingInput)
    else .next s.enterWriteSession
  else if s.cmd = 0x55#8 then .next (s.enterDone .ok)
  else .fault (.noCommandCase s.cmd)

/-- The command-byte transition (R142): anything but `TxWritten(1)` is a ShortWriteError. -/
def commandByteAnswer (a : TxAnswer) (s : State) : Host.Outcome State Fault Refusal :=
  if a.response [s.cmd] = .written 1 then
    (s.deliver (a.delivered [s.cmd])).dispatchCommand
  else
    .next ((s.deliver (a.delivered [s.cmd])).raise (.shortWrite (a.response [s.cmd])))

/-- One input, in a state with a legal code. `start` is read only in IDLE (R147); an answer for which no request is
outstanding is not consumed by the run (R231; log 4); DONE and FAULT have no transition but reset (R31). -/
def react (inp : Input) (s : State) : Host.Outcome State Fault Refusal :=
  match inp with
  | .reset k => .next (s.resetAction k)
  | .start c sp => if s.fsm = .idle then exec (decodeCmd c) (s.present sp) else .next (s.present sp)
  | .tx a =>
    if s.fsm = .sendCmd then commandByteAnswer a s
    else if s.fsm = .wrSend then .next (sendAnswer a s)
    else .next s
  | .rx a =>
    if s.fsm = .rdRecv then frameAnswer a s
    else if s.fsm = .wrHdr then headerAnswer a s
    else .next s
  | .sink a => if s.fsm = .rdStore then .next (storeAnswer a s) else .next s
  | .src a => if s.fsm = .wrFetch then .next (fetchAnswer a s) else .next s

/-- The input is a reset. -/
def Input.isReset : Input → Bool
  | .reset _ => true
  | _ => false

/-- One transition (00_scope.md R9). With nothing presented the block waits (20_memory.md R65; log 2). A reserved `state`
code has no transition (R31; log 12) but reset, which may be asserted in any state (R231). -/
def advance (s : State) : Host.Outcome State Fault Refusal :=
  match s.env.inputs with
  | [] => if s.fsm.isReserved = true then .fault (.reservedState s.fsm.code) else .next s
  | inp :: rest =>
    if s.fsm.isReserved = true ∧ inp.isReset = false then .fault (.reservedState s.fsm.code)
    else react inp (s.withInputs rest)

/-- The surroundings that make the next transition read the bytes `bs`: the FSM state in which the block reads format
`f`, and the input that delivers them (log 15). -/
def State.offer (s : State) (f : Format) (bs : List Byte) : State :=
  match f with
  | .cmd8 =>
    { s with fsm := .idle, env := { s.env with inputs := .start (bs.headD 0x00#8) true :: s.env.inputs } }
  | .hdr16 =>
    { s with
      fsm := .wrHdr
      env := { s.env with inputs := .rx (.group 2) :: s.env.inputs, rxStream := bs ++ s.env.rxStream } }
  | .hex8 =>
    { s with
      fsm := .rdRecv
      env := { s.env with inputs := .rx (.group 2) :: s.env.inputs, rxStream := bs ++ 0x00#8 :: s.env.rxStream } }

/-- An opcode-table word, offered as the next thing the block reads. A frame has an even number of characters, so a
digit word comes with the character after it zero, as every bit past the word is. -/
def State.offerWord (s : State) (nbits w : Nat) : State :=
  if nbits = 16 then s.offer .hdr16 (splitHeader s.cfg.addrOrder (BitVec.ofNat 16 w))
  else s.offer (tableFormat (BitVec.ofNat 8 w)) [BitVec.ofNat 8 w]

end Sys2Proof.Machine
end

