-- ==== Sys2Proof/Machine/Step.lean ====
section
/-! DEFINITION. The step of the machine, and the placing of one opcode-table word where it reads next. -/

namespace Sys2Proof.Machine

/-- One step: one transition of the block (00_scope.md R9). -/
def step (s : State) : Host.Outcome State Fault Refusal := advance s

/-- `s` with the opcode-table word `w` as the next thing the block reads (log 15). -/
def State.withFetchWord (s : State) (nbits w : Nat) : State := s.offerWord nbits w

end Sys2Proof.Machine
end

