-- ==== Sys2Proof/Safety.lean ====
section
/-! DEFINITION. The terms claims are stated in: what a transition leaves alone, and the invariants of the block that the
spec's prose promises (10_state.md R21, R24, R26 to R29, R31; 60_exceptions.md R202 to R205). -/

namespace Sys2Proof.Machine

/-! ### What is left alone -/

/-- Every byte of the sink and of the source reads as before. -/
def State.SameBytes (s t : State) : Prop :=
  (∀ a : Nat, Memory.read t.env.sink a = Memory.read s.env.sink a) ∧
  (∀ a : Nat, Memory.read t.env.source a = Memory.read s.env.source a)

/-- The parameters and every register but `state`, `status` and `closed` are as before. -/
def State.SameDatapath (s t : State) : Prop :=
  t.cfg = s.cfg ∧ t.cmd = s.cmd ∧ t.srcPresent = s.srcPresent ∧ t.offset = s.offset ∧ t.addr = s.addr ∧
  t.frame = s.frame ∧ t.frameLen = s.frameLen ∧ t.chunk = s.chunk ∧ t.chunkLen = s.chunkLen

/-- The next input is a reset. -/
def State.nextIsReset (s : State) : Bool :=
  match s.env.inputs with
  | inp :: _ => inp.isReset
  | [] => false

/-- The instructions `is`, run one after another from `s`, lead to `t`. -/
def Runs : List Instr → State → State → Prop
  | [], s, t => t = s
  | i :: is, s, t => ∃ u, exec i s = .next u ∧ Runs is u t

/-! ### Alike in control -/

/-- An event with every byte it carries blotted out: its kind, sizes, address and recorded fault stay. -/
def Event.shape : Event → Event
  | .request (.txSend q) => .request (.txSend (q.map fun _ => 0x00#8))
  | .request (.rxRecv max) => .request (.rxRecv max)
  | .request (.memWrite v) => .request (.memWrite (v.map fun _ => 0x00#8))
  | .request (.memRead a n) => .request (.memRead a n)
  | .fault f => .fault f
  | .close => .close

/-- Two states alike in all that control is (20_memory.md R64): the registers but for the contents of `frame` and `chunk`,
the inputs, how many device bytes wait, how many were sent, and the kinds and sizes of the events. Free are the contents
of `frame` and `chunk`, the device's bytes, the bytes sent, the sink, the free bytes to come, and the source, but for the
addresses it holds under SHORT_READ_POLICY = Fail. -/
structure SameControl (s t : State) : Prop where
  cfg : t.cfg = s.cfg
  fsm : t.fsm = s.fsm
  cmd : t.cmd = s.cmd
  srcPresent : t.srcPresent = s.srcPresent
  offset : t.offset = s.offset
  addr : t.addr = s.addr
  frame_length : t.frame.length = s.frame.length
  frameLen : t.frameLen = s.frameLen
  chunkLen : t.chunkLen = s.chunkLen
  status : t.status = s.status
  closed : t.closed = s.closed
  decoded_length : t.decoded.length = s.decoded.length
  trace_shape : t.trace.map Event.shape = s.trace.map Event.shape
  inputs : t.env.inputs = s.env.inputs
  srcPresentIn : t.env.srcPresentIn = s.env.srcPresentIn
  rxStream_length : t.env.rxStream.length = s.env.rxStream.length
  txSent_length : t.env.txSent.length = s.env.txSent.length
  source_addresses : s.cfg.shortReadPolicy = .fail → t.env.source.map Prod.fst = s.env.source.map Prod.fst

/-! ### Invariants -/

/-- Control (R28, R29, R31, R205): no reserved state; `closed` exactly in the terminal states; a result exactly there; the
fault codes exactly in FAULT; a busy state belongs to the latched command. -/
abbrev State.ControlOk (s : State) : Prop :=
  s.fsm.isReserved = false ∧
  s.closed = s.ended ∧
  (s.status = .noResult ↔ s.ended = false) ∧
  (16 ≤ s.status.code.toNat ↔ s.fsm = .fault) ∧
  (s.fsm = .done → s.status = .ok ∨ s.status = .notImplemented) ∧
  (s.fsm = .sendCmd → s.cmd = 0x52#8 ∨ s.cmd = 0x57#8 ∨ s.cmd = 0x55#8) ∧
  (s.fsm = .rdRecv ∨ s.fsm = .rdStore → s.cmd = 0x52#8) ∧
  (s.fsm = .wrHdr ∨ s.fsm = .wrFetch ∨ s.fsm = .wrSend → s.cmd = 0x57#8)

/-- Buffers (R20, R26, R27): their sizes, their lengths, and what they hold while a request that carries them is out. -/
abbrev State.BuffersOk (s : State) : Prop :=
  s.frame.length = s.cfg.frameMax ∧
  s.chunk.length = s.cfg.bufferSize ∧
  s.frameLen.toNat ≤ s.cfg.frameMax ∧
  s.frameLen.toNat % 2 = 0 ∧
  s.chunkLen.toNat ≤ s.cfg.bufferSize ∧
  s.decoded = [] ∧
  (s.fsm = .rdStore → decodeFrame (s.frame.take s.frameLen.toNat) = some s.chunkBytes) ∧
  (s.fsm = .wrSend → s.frame = encodeChunk s.chunk ∧ s.frameLen.toNat = s.cfg.frameMax)

/-- The byte count (R24): below CHIP_SIZE while the Read session runs, never above CHIP_SIZE + BUFFER_SIZE - 1. -/
abbrev State.OffsetOk (s : State) : Prop :=
  s.offset.toNat ≤ s.cfg.chipSize + s.cfg.bufferSize - 1 ∧
  (s.fsm = .rdRecv ∨ s.fsm = .rdStore → s.offset.toNat < s.cfg.chipSize)

/-- The fault of a `Fault` event. -/
def Event.fault? : Event → Option BlockFault
  | .fault f => some f
  | _ => none

/-- The address of a source-read request. -/
def Event.readAddr? : Event → Option Half
  | .request (.memRead a _) => some a
  | _ => none

/-- Events (20_memory.md R61, 60_exceptions.md R202, R204): the last event of a waiting block is the request it waits on;
`Close` is emitted once, last, and only by an ended run; a fault is raised at most once, and `status` holds its code. -/
abbrev State.TraceOk (s : State) : Prop :=
  (s.outstanding.isSome = true → s.trace.getLast? = s.outstanding.map Event.request) ∧
  (s.fsm = .idle → s.trace = []) ∧
  s.trace.count .close = s.closed.toNat ∧
  (s.closed = true → s.trace.getLast? = some .close) ∧
  (s.fsm = .fault → (s.trace.filterMap Event.fault?).map BlockFault.status = [s.status]) ∧
  (s.fsm ≠ .fault → s.trace.filterMap Event.fault? = [])

/-- Both byte stores are in canonical form. -/
abbrev State.StoresOk (s : State) : Prop := Memory.wf s.env.sink ∧ Memory.wf s.env.source

/-- The invariant of the block. -/
abbrev State.Inv (s : State) : Prop :=
  s.cfg.wf ∧ s.ControlOk ∧ s.BuffersOk ∧ s.OffsetOk ∧ s.TraceOk ∧ s.StoresOk

end Sys2Proof.Machine
end

