-- ==== Sys2Proof/Certificates/Slice0/Obligations.lean ====
section
/-! DEFINITION. The statements for the provers. Each names the rule of spec/ it formalises. "Log n" is
notes/assumptions/n.md. -/

open Sys2Proof Sys2Proof.Machine

/-! ### Decoding and encoding -/

/-- Words written out bit by bit from the tables of R81, R86 and R87 decode to the instructions they stand for. -/
def Obligations.WrittenOutWordsDecode : Prop :=
  decodeAs Params.reference .cmd8 [0b01010010#8] = .ok .read ∧
  decodeAs Params.reference .cmd8 [0b01010101#8] = .ok .unlock ∧
  decodeAs Params.reference .cmd8 [0b01110010#8] = .ok (.cmdIllegal 0x72#8) ∧
  decodeAs Params.reference .hdr16 [0b01000000#8, 0b00000000#8] = .ok (.hdrServe 64#16) ∧
  decodeAs Params.reference .hdr16 [0b00000000#8, 0b10000000#8] = .ok (.hdrEnd 32768#16) ∧
  decodeAs Params.reference .hex8 [0b01000001#8] = .ok .digA ∧
  decodeAs Params.reference .hex8 [0b01100001#8] = .ok (.digInvalid 0x61#8)

/-- Decoding the encoding of a well-formed instruction gives it back, under every parameter setting. -/
def Obligations.DecodeOfEncodeIsIdentity : Prop :=
  ∀ (p : Params) (i : Instr), i.wf p = true → decodeAs p i.format (encode p i) = .ok i

/-- Every instruction the decoder reads is well formed, of the format read, and encodes to the bytes it was read from. -/
def Obligations.EncodeOfDecodeIsIdentity : Prop :=
  ∀ (p : Params) (f : Format) (bs : List Byte) (i : Instr), decodeAs p f bs = .ok i →
    i.wf p = true ∧ i.format = f ∧ encode p i = bs

/-- The decoder refuses bytes exactly when their number is not the format's (R89, R90): no byte value is refused. -/
def Obligations.DecoderRefusesOnlyWrongLengths : Prop :=
  ∀ (p : Params) (f : Format) (bs : List Byte), (∃ i, decodeAs p f bs = .ok i) ↔ bs.length = f.bytes

/-- The codes of `state` and `status` (R21, R28): every 4-bit and every 5-bit code stands for exactly one value, the named
ones are the tables', and each fault, whatever it records, has exactly the code R200 gives it. How reserved codes are held is the model's choice (log 26). -/
def Obligations.StateAndStatusCodes : Prop :=
  (∀ c : BitVec 4, ∃! p : Phase, p.code = c) ∧
  (∀ c : BitVec 5, ∃! st : Status, st.code = c) ∧
  [Phase.idle, .sendCmd, .rdRecv, .rdStore, .wrHdr, .wrFetch, .wrSend, .done, .fault].map Phase.code =
    [0x0#4, 0x1#4, 0x2#4, 0x3#4, 0x4#4, 0x5#4, 0x6#4, 0xE#4, 0xF#4] ∧
  [Status.noResult, .ok, .notImplemented, .shortWriteError, .oddFrameLengthError, .missingInputError, .rxError,
      .shortHeaderError, .sinkError, .sourceError, .illegalCommand, .badHexDigitError, .shortReadError].map Status.code =
    [0#5, 1#5, 2#5, 16#5, 17#5, 18#5, 19#5, 20#5, 21#5, 22#5, 23#5, 24#5, 25#5] ∧
  (∀ f : BlockFault, 16 ≤ f.status.code.toNat ∧ f.status.code.toNat ≤ 25) ∧
  (∀ r, (BlockFault.shortWrite r).status.code = 16#5) ∧
  (∀ len, (BlockFault.oddFrameLength len).status.code = 17#5) ∧
  BlockFault.missingInput.status.code = 18#5 ∧
  BlockFault.rxError.status.code = 19#5 ∧
  (∀ len, (BlockFault.shortHeader len).status.code = 20#5) ∧
  BlockFault.sinkError.status.code = 21#5 ∧
  BlockFault.sourceError.status.code = 22#5 ∧
  (∀ c, (BlockFault.illegalCommand c).status.code = 23#5) ∧
  BlockFault.badHexDigit.status.code = 24#5 ∧
  (∀ k, (BlockFault.shortRead k).status.code = 25#5)

/-! ### The codec -/

/-- The codec's functions on every operand (R111, R112, R115, R116): which characters are digits, the encoder's and the
decoder's values, and the byte of a pair. -/
def Obligations.CodecFunctionsOnEveryOperand : Prop :=
  (∀ ch : Byte, isDigit ch = true ↔
    (0x30 ≤ ch.toNat ∧ ch.toNat ≤ 0x39) ∨ (0x41 ≤ ch.toNat ∧ ch.toNat ≤ 0x46)) ∧
  (∀ v : Nibble, (encNib v).toNat = if v.toNat ≤ 9 then 0x30 + v.toNat else 0x41 + (v.toNat - 10)) ∧
  (∀ ch : Byte, (decDigit ch).toNat =
    if 0x30 ≤ ch.toNat ∧ ch.toNat ≤ 0x39 then ch.toNat - 0x30
    else if 0x41 ≤ ch.toNat ∧ ch.toNat ≤ 0x46 then ch.toNat - 0x41 + 10
    else 0) ∧
  (∀ hi lo : Byte, (decPair hi lo).toNat = 16 * (decDigit hi).toNat + (decDigit lo).toNat)

/-- The codec laws of R119, which the spec marks as its own inference: round trip, lengths, pointwise dependence, and the digit round trip with injectivity. -/
def Obligations.CodecLaws : Prop :=
  (∀ b : List Byte, decodeFrame (encodeChunk b) = some b) ∧
  (∀ b : List Byte, (encodeChunk b).length = 2 * b.length) ∧
  (∀ f c : List Byte, decodeFrame f = some c → c.length = f.length / 2) ∧
  (∀ (f out : List Byte) (i : Nat) (hi lo : Byte), decodeFrame f = some out → f[2 * i]? = some hi → f[2 * i + 1]? = some lo →
    out[i]? = some (decPair hi lo)) ∧
  (∀ (b : List Byte) (i : Nat) (x : Byte), b[i]? = some x →
    (encodeChunk b)[2 * i]? = some (encNib (x.extractLsb' 4 4)) ∧
    (encodeChunk b)[2 * i + 1]? = some (encNib (x.extractLsb' 0 4))) ∧
  (∀ v w : Nibble, encNib v = encNib w → v = w) ∧
  (∀ v : Nibble, decDigit (encNib v) = v)

/-- The reverse law of R120, which the spec marks as its own inference: on an even-length frame, encoding what was decoded puts '0' where the character was no digit
and changes nothing else; so it gives the frame back exactly when every character is a digit, and the decode cannot be
told apart from that of the frame with '0' in those places. -/
def Obligations.ReverseLaw : Prop :=
  ∀ f : List Byte, f.length % 2 = 0 → ∃ c, decodeFrame f = some c ∧
    encodeChunk c = f.map (fun ch => if isDigit ch = true then ch else 0x30#8) ∧
    (encodeChunk c = f ↔ frameDigitsOk f = true) ∧
    decodeFrame (f.map (fun ch => if isDigit ch = true then ch else 0x30#8)) = some c

/-- R115, for every byte and in every RD_RECV state that admits it: a digit character's instruction yields `ch - '0'` or
`ch - 'A' + 10`, any other character's yields 0 under Permissive; nothing else changes. Where the nibble is kept is the
model's choice (log 10). -/
def Obligations.CharacterYieldsItsDigitValue : Prop :=
  ∀ (ch : Byte) (s : State), s.fsm = .rdRecv → s.cfg.decodeMode = .permissive →
    ∃ v : Nibble, exec (decodeDigit ch) s = .next { s with decoded := s.decoded ++ [v] } ∧
      (0x30 ≤ ch.toNat ∧ ch.toNat ≤ 0x39 → v.toNat = ch.toNat - 0x30) ∧
      (0x41 ≤ ch.toNat ∧ ch.toNat ≤ 0x46 → v.toNat = ch.toNat - 0x41 + 10) ∧
      (¬ (0x30 ≤ ch.toNat ∧ ch.toNat ≤ 0x39) → ¬ (0x41 ≤ ch.toNat ∧ ch.toNat ≤ 0x46) → v.toNat = 0)

/-! ### Instructions: what each completes with, and its frame -/

/-- READ and UNLOCK in IDLE (R141, R144, R146): latch the command port, send the command byte, wait in SEND_CMD; nothing
else changes. -/
def Obligations.ReadAndUnlockSendTheirByte : Prop :=
  ∀ s : State, s.fsm = .idle →
    (∃ t, exec .read s = .next t ∧
      t = { s with
        cmd := 0x52#8, srcPresent := s.env.srcPresentIn, fsm := .sendCmd
        trace := s.trace ++ [.request (.txSend [0x52#8])] } ∧ s.SameBytes t) ∧
    (∃ t, exec .unlock s = .next t ∧
      t = { s with
        cmd := 0x55#8, srcPresent := s.env.srcPresentIn, fsm := .sendCmd
        trace := s.trace ++ [.request (.txSend [0x55#8])] } ∧ s.SameBytes t)

/-- WRITE in IDLE, with a source configured or the check put after the command byte (R141, R143). -/
def Obligations.WriteSendsItsByte : Prop :=
  ∀ s : State, s.fsm = .idle → s.env.srcPresentIn = true ∨ s.cfg.missingInputAfterCmd = true →
    ∃ t, exec .write s = .next t ∧
      t = { s with
        cmd := 0x57#8, srcPresent := s.env.srcPresentIn, fsm := .sendCmd
        trace := s.trace ++ [.request (.txSend [0x57#8])] } ∧ s.SameBytes t

/-- WRITE in IDLE with no source (R143): MissingInputError before anything is sent, and the latch is discarded (R203). -/
def Obligations.WriteWithoutSourceFaults : Prop :=
  ∀ s : State, s.fsm = .idle → s.env.srcPresentIn = false → s.cfg.missingInputAfterCmd = false →
    ∃ t, exec .write s = .next t ∧
      t = { s with
        status := .missingInputError, fsm := .fault, closed := true, decoded := []
        trace := s.trace ++ [.fault .missingInput, .close] } ∧ s.SameBytes t

/-- ERASE in IDLE (R145): the stub ends at once with NOT_IMPLEMENTED; the only event is Close. -/
def Obligations.EraseEndsNotImplemented : Prop :=
  ∀ s : State, s.fsm = .idle →
    ∃ t, exec .erase s = .next t ∧
      t = { s with
        cmd := 0x45#8, srcPresent := s.env.srcPresentIn, status := .notImplemented, fsm := .done, closed := true
        trace := s.trace ++ [.close] } ∧ s.SameBytes t

/-- CMD_ILLEGAL in IDLE (R89, R141): its effect is the fault IllegalCommand with the byte; nothing is sent or latched. -/
def Obligations.IllegalCommandFaults : Prop :=
  ∀ (b : Byte) (s : State), s.fsm = .idle →
    ∃ t, exec (.cmdIllegal b) s = .next t ∧
      t = { s with
        status := .illegalCommand, fsm := .fault, closed := true, decoded := []
        trace := s.trace ++ [.fault (.illegalCommand b), .close] } ∧ s.SameBytes t

/-- Outside IDLE a command has no effect, and `start` changes no register (R147); only the line `src_present_in` itself
shows what the surroundings drive. -/
def Obligations.CommandsIgnoredOutsideIdle : Prop :=
  ∀ s : State, s.fsm ≠ .idle →
    (∀ i : Instr, i.format = .cmd8 → exec i s = .next s) ∧
    (∀ (c : Byte) (sp : Bool) (rest : List Input), s.fsm.isReserved = false → s.env.inputs = .start c sp :: rest →
      step s = .next { s with env := { s.env with inputs := rest, srcPresentIn := sp } })

/-- HDR_SERVE and HDR_END in WR_HDR (R181, R182): `addr` takes the value; a served address issues the source read, an end
value ends the run with OK. -/
def Obligations.HeaderInstructionsComplete : Prop :=
  ∀ (a : Half) (s : State), s.fsm = .wrHdr →
    (∃ t, exec (.hdrServe a) s = .next t ∧
      t = { s with
        addr := a, fsm := .wrFetch, trace := s.trace ++ [.request (.memRead a s.cfg.bufferSize)] } ∧ s.SameBytes t) ∧
    (∃ t, exec (.hdrEnd a) s = .next t ∧
      t = { s with
        addr := a, status := .ok, fsm := .done, closed := true, trace := s.trace ++ [.close] } ∧ s.SameBytes t)

/-- DIG_0 to DIG_F in RD_RECV (R115): each yields its own nibble as the next decoded digit of the frame; nothing else
changes. That the nibble is kept in the transition's local value `decoded` is the model's choice (log 10). -/
def Obligations.DigitsYieldTheirNibble : Prop :=
  ∀ s : State, s.fsm = .rdRecv →
    ∀ p ∈ [(Instr.dig0, 0x0#4), (.dig1, 0x1#4), (.dig2, 0x2#4), (.dig3, 0x3#4), (.dig4, 0x4#4), (.dig5, 0x5#4),
      (.dig6, 0x6#4), (.dig7, 0x7#4), (.dig8, 0x8#4), (.dig9, 0x9#4), (.digA, 0xA#4), (.digB, 0xB#4), (.digC, 0xC#4),
      (.digD, 0xD#4), (.digE, 0xE#4), (.digF, 0xF#4)],
      ∃ t, exec p.1 s = .next t ∧ t = { s with decoded := s.decoded ++ [p.2] } ∧ s.SameBytes t

/-- DIG_INVALID in RD_RECV: nibble 0 under Permissive (R115); under Strict the fault BadHexDigitError (R163). The nibble's
place is the model's choice (log 10). -/
def Obligations.InvalidDigitCompletes : Prop :=
  ∀ (ch : Byte) (s : State), s.fsm = .rdRecv →
    (s.cfg.decodeMode = .permissive →
      ∃ t, exec (.digInvalid ch) s = .next t ∧ t = { s with decoded := s.decoded ++ [0x0#4] } ∧ s.SameBytes t) ∧
    (s.cfg.decodeMode = .strict →
      ∃ t, exec (.digInvalid ch) s = .next t ∧
        t = { s with
          status := .badHexDigitError, fsm := .fault, closed := true, decoded := []
          trace := s.trace ++ [.fault .badHexDigit, .close] } ∧ s.SameBytes t)

/-! ### A step runs what was decoded -/

/-- In IDLE, `start` makes the step the instruction of the command byte, run with the port's lines as driven. Inputs as a list are the
model's choice (log 1). -/
def Obligations.StepRunsStartedCommand : Prop :=
  ∀ (s : State) (c : Byte) (sp : Bool) (rest : List Input) (i : Instr),
    s.fsm = .idle → s.env.inputs = .start c sp :: rest → decodeAs s.cfg .cmd8 [c] = .ok i →
    step s = exec i { s with env := { s.env with inputs := rest, srcPresentIn := sp } }

/-- In WR_HDR, a group of two bytes makes the step the instruction of that header, with the two bytes consumed.
Inputs as a list are the model's choice (log 1). -/
def Obligations.StepRunsReceivedHeader : Prop :=
  ∀ (s : State) (n : Nat) (h0 h1 : Byte) (more : List Byte) (rest : List Input) (i : Instr),
    s.fsm = .wrHdr → s.env.inputs = .rx (.group n) :: rest → 2 ≤ n → s.env.rxStream = h0 :: h1 :: more →
    decodeAs s.cfg .hdr16 [h0, h1] = .ok i →
    step s = exec i { s with env := { s.env with inputs := rest, rxStream := more } }

/-- In RD_RECV, an even-length group that the mode admits makes the step the instructions of its characters, in order, and
then the store of the frame. A character as an instruction of its own is the model's choice (log 10). -/
def Obligations.StepRunsFrameCharacters : Prop :=
  ∀ (s t : State) (n : Nat) (g : List Byte) (rest : List Input) (is : List Instr),
    s.fsm = .rdRecv → s.env.inputs = .rx (.group n) :: rest → g = s.env.rxStream.take (min n s.cfg.frameMax) →
    g.length % 2 = 0 → s.cfg.decodeMode = .permissive ∨ frameDigitsOk g = true →
    g.map (fun ch => decodeAs s.cfg .hex8 [ch]) = is.map Except.ok →
    Runs is { s with
      env := { s.env with inputs := rest, rxStream := s.env.rxStream.drop (min n s.cfg.frameMax) } } t →
    step s = .next (t.storeFrame g)

/-! ### The transitions -/

/-- The start transition (R141), for every value of `cmd_in`, and it is the only transition out of IDLE but reset. -/
def Obligations.StartTransition : Prop :=
  (∀ (s : State) (c : Byte) (sp : Bool) (rest : List Input), s.fsm = .idle → s.env.inputs = .start c sp :: rest →
    let u : State := { s with env := { s.env with inputs := rest, srcPresentIn := sp } }
    let sent : State :=
      { u with cmd := c, srcPresent := sp, fsm := .sendCmd, trace := s.trace ++ [.request (.txSend [c])] }
    (c = 0x52#8 ∨ c = 0x55#8 → step s = .next sent) ∧
    (c = 0x57#8 → sp = false → s.cfg.missingInputAfterCmd = false → step s = .next (u.raise .missingInput)) ∧
    (c = 0x57#8 → sp = true ∨ s.cfg.missingInputAfterCmd = true → step s = .next sent) ∧
    (c = 0x45#8 → step s = .next
      { u with
        cmd := c, srcPresent := sp, status := .notImplemented, fsm := .done, closed := true
        trace := s.trace ++ [.close] }) ∧
    (NotACommand c → step s = .next (u.raise (.illegalCommand c)))) ∧
  (∀ s t : State, s.fsm = .idle → step s = .next t → t.fsm ≠ .idle →
    ∃ c sp rest, s.env.inputs = .start c sp :: rest)

/-- The command-byte transition (R142), for every TX answer and every latched command. -/
def Obligations.CommandByteTransition : Prop :=
  ∀ (s : State) (a : TxAnswer) (rest : List Input), s.fsm = .sendCmd → s.env.inputs = .tx a :: rest →
    let u : State := { s with
      env := { s.env with inputs := rest, txSent := s.env.txSent ++ a.delivered [s.cmd] } }
    (a.response [s.cmd] ≠ .written 1 → step s = .next (u.raise (.shortWrite (a.response [s.cmd])))) ∧
    (a.response [s.cmd] = .written 1 →
      (s.cmd = 0x52#8 → step s = .next
        { u with offset := 0#16, fsm := .rdRecv, trace := s.trace ++ [.request (.rxRecv s.cfg.frameMax)] }) ∧
      (s.cmd = 0x57#8 → s.cfg.missingInputAfterCmd = true → s.srcPresent = false →
        step s = .next (u.raise .missingInput)) ∧
      (s.cmd = 0x57#8 → s.cfg.missingInputAfterCmd = false ∨ s.srcPresent = true → step s = .next
        { u with fsm := .wrHdr, trace := s.trace ++ [.request (.rxRecv 2)] }) ∧
      (s.cmd = 0x55#8 → step s = .next (u.enterDone .ok)))

/-- UNLOCK as a whole (R146): one byte is sent and the run ends; no reply is awaited and nothing is received. Any answer
but one byte written is a ShortWriteError. -/
def Obligations.UnlockSendsOneByteAndEnds : Prop :=
  ∀ (s : State) (sp : Bool) (a : TxAnswer) (rest : List Input), s.fsm = .idle →
    s.env.inputs = .start 0x55#8 sp :: .tx a :: rest →
    (a.response [0x55#8] = .written 1 → ∃ t : State, Sys2Proof.core.run 2 s = .next t ∧
      t.fsm = .done ∧ t.status = .ok ∧ t.closed = true ∧
      t.trace = s.trace ++ [.request (.txSend [0x55#8]), .close] ∧
      t.env.txSent = s.env.txSent ++ [0x55#8] ∧ t.env.rxStream = s.env.rxStream) ∧
    (a.response [0x55#8] ≠ .written 1 → ∃ (t : State) (f : BlockFault), Sys2Proof.core.run 2 s = .next t ∧
      t.fsm = .fault ∧ t.status = .shortWriteError ∧ t.closed = true ∧
      t.trace = s.trace ++ [.request (.txSend [0x55#8]), .fault f, .close] ∧ t.env.rxStream = s.env.rxStream)

/-- The receive transition with the frame length validator, decode and store (R162, R163, in the order of R207): a receive
error, then an odd length, then under Strict a character that is no digit, each with nothing stored; else the frame is
taken, its decode becomes the chunk, and the sink append is issued. What the buffers hold past the frame, and which device
bytes a receive error loses (log 21), is not said. -/
def Obligations.ReceiveTransition : Prop :=
  ∀ (s : State) (rest : List Input), s.fsm = .rdRecv → s.decoded = [] →
    (∀ k : Nat, s.env.inputs = .rx (.err k) :: rest →
      ∃ left, step s = .next (State.raise { s with env := { s.env with inputs := rest, rxStream := left } } .rxError)) ∧
    (∀ n : Nat, s.env.inputs = .rx (.group n) :: rest →
      let g := s.env.rxStream.take (min n s.cfg.frameMax)
      let u : State := { s with
        env := { s.env with inputs := rest, rxStream := s.env.rxStream.drop (min n s.cfg.frameMax) } }
      (g.length % 2 = 1 → step s = .next (u.raise (.oddFrameLength g.length))) ∧
      (g.length % 2 = 0 → s.cfg.decodeMode = .strict → frameDigitsOk g = false →
        step s = .next (u.raise .badHexDigit)) ∧
      (g.length % 2 = 0 → s.cfg.decodeMode = .permissive ∨ frameDigitsOk g = true →
        ∃ c frame' chunk', decodeFrame g = some c ∧ frame'.take g.length = g ∧ chunk'.take c.length = c ∧
          step s = .next { u with
            frame := frame', frameLen := BitVec.ofNat 8 g.length
            chunk := chunk', chunkLen := BitVec.ofNat 7 (g.length / 2)
            fsm := .rdStore, trace := s.trace ++ [.request (.memWrite c)] }))

/-- Store-complete (R164): the chunk goes after everything the sink held, byte for byte; `offset` advances by the chunk's
length; the session ends at CHIP_SIZE or above, else the next frame is requested. On SinkErr a prefix of the chunk is in
the sink and the fault leaves `offset` alone. The sum does not wrap in a state that meets the invariant. -/
def Obligations.StoreCompleteTransition : Prop :=
  ∀ (s : State) (a : SinkAnswer) (rest : List Input), s.fsm = .rdStore → s.env.inputs = .sink a :: rest →
    Memory.wf s.env.sink →
    let e := Memory.endAddr s.env.sink
    let n_off : Half := s.offset + s.chunkLen.setWidth 16
    ∃ (t : State) (k : Nat), step s = .next t ∧ k ≤ s.chunkBytes.length ∧
      (∀ j, j < k → Memory.read t.env.sink (e + j) = s.chunkBytes[j]?) ∧
      (∀ x, x < e ∨ e + k ≤ x → Memory.read t.env.sink x = Memory.read s.env.sink x) ∧
      (let u : State := { s with env := { s.env with inputs := rest, sink := t.env.sink } }
      (a = .ok → k = s.chunkBytes.length ∧
        (s.cfg.chipSize ≤ n_off.toNat → t = State.enterDone { u with offset := n_off } .ok) ∧
        (n_off.toNat < s.cfg.chipSize → t = { u with
          offset := n_off, fsm := .rdRecv, trace := s.trace ++ [.request (.rxRecv s.cfg.frameMax)] })) ∧
      (∀ m, a = .err m → k = min m s.chunkBytes.length ∧ t = u.raise .sinkError)) ∧
      (s.Inv → n_off.toNat = s.offset.toNat + s.chunkLen.toNat)

/-- Overshoot is accepted (R165): a chunk that carries the session past CHIP_SIZE is appended whole and the final count
lies in CHIP_SIZE + 1 .. CHIP_SIZE + BUFFER_SIZE - 1. -/
def Obligations.OvershootIsStoredWhole : Prop :=
  ∀ (s : State) (rest : List Input), s.Inv → s.fsm = .rdStore → s.env.inputs = .sink .ok :: rest →
    s.cfg.chipSize < s.offset.toNat + s.chunkLen.toNat →
    ∃ t, step s = .next t ∧ t.fsm = .done ∧ t.status = .ok ∧
      t.totalO.toNat = s.offset.toNat + s.chunkLen.toNat ∧
      s.cfg.chipSize + 1 ≤ t.totalO.toNat ∧ t.totalO.toNat ≤ s.cfg.chipSize + s.cfg.bufferSize - 1 ∧
      (∀ j, j < s.chunkLen.toNat → Memory.read t.env.sink (Memory.endAddr s.env.sink + j) = s.chunk[j]?) ∧
      t.env.rxStream = s.env.rxStream

/-- The header transition and the loop test (R181, R182, R56, in the order of R207): a receive error; a group of fewer than
two bytes; else `addr` is the assembled value, and the unsigned comparison with CHIP_SIZE ends the session or issues the
source read at it. -/
def Obligations.HeaderTransition : Prop :=
  ∀ (s : State) (rest : List Input), s.fsm = .wrHdr →
    (∀ k : Nat, s.env.inputs = .rx (.err k) :: rest →
      ∃ left, step s = .next (State.raise { s with env := { s.env with inputs := rest, rxStream := left } } .rxError)) ∧
    (∀ n : Nat, s.env.inputs = .rx (.group n) :: rest → min n s.env.rxStream.length < 2 →
      step s = .next (State.raise
        { s with env := { s.env with inputs := rest, rxStream := s.env.rxStream.drop n } }
        (.shortHeader (min n s.env.rxStream.length)))) ∧
    (∀ (n : Nat) (h0 h1 : Byte) (more : List Byte), s.env.inputs = .rx (.group n) :: rest → 2 ≤ n →
      s.env.rxStream = h0 :: h1 :: more →
      ∃ a : Half,
        a.toNat = (match s.cfg.addrOrder with
          | .le => h1.toNat * 256 + h0.toNat
          | .be => h0.toNat * 256 + h1.toNat) ∧
        (a.toNat < s.cfg.chipSize → step s = .next { s with
          addr := a, fsm := .wrFetch, trace := s.trace ++ [.request (.memRead a s.cfg.bufferSize)]
          env := { s.env with inputs := rest, rxStream := more } }) ∧
        (s.cfg.chipSize ≤ a.toNat → step s = .next { s with
          addr := a, status := .ok, fsm := .done, closed := true, trace := s.trace ++ [.close]
          env := { s.env with inputs := rest, rxStream := more } }))

/-- Fetch, then encode and send (R184, R185): SourceError; under Fail a short read faults; else the chunk is the source's
bytes at `addr` and, past a short read, BUFFER_SIZE - k more bytes, which Pad(v) makes all v and Draw leaves free; its
encoding is sent whole. The counter `draws` is the model's own (log 8). -/
def Obligations.FetchTransition : Prop :=
  ∀ (s : State) (rest : List Input), s.fsm = .wrFetch →
    let d := Memory.readRun s.env.source s.addr.toNat s.cfg.bufferSize
    let u : State := { s with env := { s.env with inputs := rest } }
    (s.env.inputs = .src .err :: rest → step s = .next (u.raise .sourceError)) ∧
    (s.env.inputs = .src .data :: rest → s.cfg.shortReadPolicy = .fail → d.length < s.cfg.bufferSize →
      step s = .next (u.raise (.shortRead d.length))) ∧
    (s.env.inputs = .src .data :: rest → s.cfg.shortReadPolicy ≠ .fail ∨ d.length = s.cfg.bufferSize →
      ∃ (fill : List Byte) (drawn : Nat), (d ++ fill).length = s.cfg.bufferSize ∧
        (∀ v, s.cfg.shortReadPolicy = .pad v → fill = List.replicate (s.cfg.bufferSize - d.length) v) ∧
        step s = .next { u with
          chunk := d ++ fill, chunkLen := BitVec.ofNat 7 s.cfg.bufferSize
          frame := encodeChunk (d ++ fill), frameLen := BitVec.ofNat 8 s.cfg.frameMax
          draws := s.draws + drawn, fsm := .wrSend
          trace := s.trace ++ [.request (.txSend (encodeChunk (d ++ fill)))] })

/-- The frame a Write round sends is always FRAME_MAX characters, all of them hex digits, and decodes to the chunk, after a
short read too (R114, R185, 90_conflicts.md C1). -/
def Obligations.SentFrameIsWholeAndDecodes : Prop :=
  ∀ s t : State, s.fsm = .wrFetch → step s = .next t → t.fsm = .wrSend →
    t.frame.length = s.cfg.frameMax ∧ frameDigitsOk t.frame = true ∧ decodeFrame t.frame = some t.chunk ∧
    t.outstanding = some (.txSend t.frame)

/-- Send-complete (R186): the whole frame written returns to WR_HDR with `addr` unchanged; any other answer is a
ShortWriteError, with the sent prefix at the device. -/
def Obligations.SendCompleteTransition : Prop :=
  ∀ (s : State) (a : TxAnswer) (rest : List Input), s.fsm = .wrSend → s.env.inputs = .tx a :: rest →
    let q := s.frame.take s.cfg.frameMax
    let u : State := { s with env := { s.env with inputs := rest, txSent := s.env.txSent ++ a.delivered q } }
    (a.response q = .written s.cfg.frameMax → step s = .next
      { u with fsm := .wrHdr, trace := s.trace ++ [.request (.rxRecv 2)] }) ∧
    (a.response q ≠ .written s.cfg.frameMax → step s = .next (u.raise (.shortWrite (a.response q))))

/-! ### Faults, ends and reset -/

/-- Fault entry (R203), for every step that enters FAULT: the status is the fault's code, `closed` is 1, the events are
Fault then Close, every other register keeps its value from before the transition, and what the environment already saw
stays: at most bytes that a failed send or append had moved are added. -/
def Obligations.FaultEntryIsPrecise : Prop :=
  ∀ s t : State, step s = .next t → s.fsm ≠ .fault → t.fsm = .fault →
    (∃ f : BlockFault, t.status = f.status ∧ t.trace = s.trace ++ [.fault f, .close]) ∧
    t.closed = true ∧ s.SameDatapath t ∧
    (∃ bs, t.env.txSent = s.env.txSent ++ bs) ∧ (∃ bs, t.env.sink = Memory.append s.env.sink bs)

/-- Normal end (R204), for every step that enters DONE: `closed` is 1, the only event is Close, and the status is OK out of
SEND_CMD (UNLOCK), RD_STORE or WR_HDR and NOT_IMPLEMENTED out of IDLE. -/
def Obligations.NormalEndClosesOnce : Prop :=
  ∀ s t : State, step s = .next t → s.fsm ≠ .done → t.fsm = .done →
    t.closed = true ∧ t.trace = s.trace ++ [.close] ∧
    ((t.status = .ok ∧ (s.fsm = .sendCmd ∧ s.cmd = 0x55#8 ∨ s.fsm = .rdStore ∨ s.fsm = .wrHdr)) ∨
      (t.status = .notImplemented ∧ s.fsm = .idle))

/-- R31: DONE and FAULT are absorbing for every input but reset, and no register changes; no step enters a reserved code;
a reserved code has no next state but by reset. -/
def Obligations.TerminalStatesAbsorb : Prop :=
  (∀ s : State, s.fsm = .done ∨ s.fsm = .fault → s.nextIsReset = false →
    ∃ e : Env, step s = .next { s with env := e } ∧ s.SameBytes { s with env := e }) ∧
  (∀ s t : State, s.fsm.isReserved = false → step s = .next t → t.fsm.isReserved = false) ∧
  (∀ s t : State, s.fsm.isReserved = true → s.nextIsReset = false → step s ≠ .next t)

/-- Reset in any state (R230, R231): the block is in IDLE with the values R230 gives; no Close is emitted; the parameters
and the source stay, and the sink too unless an append was outstanding. What an abandoned request had done is a draw
(log 17). -/
def Obligations.ResetActionFromAnyState : Prop :=
  ∀ (s : State) (k : Nat) (rest : List Input), s.env.inputs = .reset k :: rest →
    ∃ t, step s = .next t ∧ t.fsm = .idle ∧ t.offset = 0#16 ∧ t.frameLen = 0#8 ∧ t.chunkLen = 0#7 ∧
      t.status = .noResult ∧ t.closed = false ∧ Event.close ∉ t.trace ∧ t.cfg = s.cfg ∧ t.env.inputs = rest ∧
      (s.fsm ≠ .rdStore → s.SameBytes t)

/-- The values R230 gives for reset, and the status outputs they show. -/
def Obligations.ResetStateValues : Prop :=
  State.reset.fsm = .idle ∧ State.reset.offset = 0#16 ∧ State.reset.frameLen = 0#8 ∧ State.reset.chunkLen = 0#7 ∧
  State.reset.status = .noResult ∧ State.reset.closed = false ∧
  State.reset.stateO = 0#4 ∧ State.reset.statusO = 0#5 ∧ State.reset.totalO = 0#16 ∧ State.reset.closedO = false

/-- R65: a request with no answer waits for as long as the machine steps; nothing changes. The same holds of IDLE with no
start. An empty input list as no answer is the model's reading (log 2). -/
def Obligations.UnansweredRequestWaitsForever : Prop :=
  ∀ (s : State) (k : Nat), s.fsm.isReserved = false → s.env.inputs = [] → Sys2Proof.core.run k s = .next s

/-- An answer on a port with no outstanding request changes nothing but is gone. The model's choice, log 4 (R231: a late
answer is not consumed by the run). -/
def Obligations.AnswersToNoRequestAreDropped : Prop :=
  ∀ (s : State) (rest : List Input), s.fsm.isReserved = false →
    (∀ a, s.env.inputs = .tx a :: rest → s.fsm ≠ .sendCmd → s.fsm ≠ .wrSend →
      step s = .next { s with env := { s.env with inputs := rest } }) ∧
    (∀ a, s.env.inputs = .rx a :: rest → s.fsm ≠ .rdRecv → s.fsm ≠ .wrHdr →
      step s = .next { s with env := { s.env with inputs := rest } }) ∧
    (∀ a, s.env.inputs = .sink a :: rest → s.fsm ≠ .rdStore →
      step s = .next { s with env := { s.env with inputs := rest } }) ∧
    (∀ a, s.env.inputs = .src a :: rest → s.fsm ≠ .wrFetch →
      step s = .next { s with env := { s.env with inputs := rest } })

/-- The exit code of an ended run (R212). -/
def Obligations.ExitCodeOfAnEndedRun : Prop :=
  ∀ s : State, s.ControlOk → s.ended = true →
    s.status.exitCode = some
      (if s.fsm = .fault then 1 else if s.status = .ok then 0 else Sys2Proof.Config.eraseExitCode)

/-! ### Invariants that every step keeps -/

/-- R28, R29, R31, R205: the control invariant. -/
def Obligations.StepKeepsControl : Prop :=
  ∀ s t : State, s.ControlOk → step s = .next t → t.ControlOk

/-- Both byte stores stay in canonical form, which is the model's (log 19). -/
def Obligations.StepKeepsStoresCanonical : Prop :=
  ∀ s t : State, s.StoresOk → step s = .next t → t.StoresOk

/-- The whole invariant: parameters, control, buffers, byte count, events, byte stores. -/
def Obligations.StepKeepsInvariant : Prop :=
  ∀ s t : State, s.Inv → step s = .next t → t.Inv

/-- The invariant holds after reset. -/
def Obligations.ResetMeetsInvariant : Prop := State.reset.Inv

/-- In a state that meets the control invariant the machine answers a next state to every input: it never faults and never
refuses. -/
def Obligations.StepNeverStopsUnderControl : Prop :=
  ∀ s : State, s.ControlOk → ∃ t, step s = .next t

/-- Every run of any length from a state that meets the invariant goes on, and meets it. -/
def Obligations.RunsNeverStopAndKeepInvariant : Prop :=
  ∀ (s : State) (k : Nat), s.Inv → ∃ t : State, Sys2Proof.core.run k s = .next t ∧ t.Inv

/-! ### Rules of the whole machine -/

/-- R24: outside reset, `offset` is set to 0 at Read entry and advanced, without wrapping, when a store completes; nothing
else writes it. -/
def Obligations.OffsetOnlyAdvancesAndNeverWraps : Prop :=
  ∀ s t : State, s.Inv → step s = .next t → s.nextIsReset = false →
    t.offset = s.offset ∨
    (s.fsm = .rdStore ∧ t.offset.toNat = s.offset.toNat + s.chunkLen.toNat) ∨
    (s.fsm = .sendCmd ∧ t.fsm = .rdRecv ∧ t.offset = 0#16)

/-- R22, R23, R25, R26, R27: outside reset, `cmd` and `src_present` are written only in IDLE, `addr` only by a header, the
buffers and their lengths only by a received frame or a fetched chunk. -/
def Obligations.RegistersAreWrittenOnlyInTheirState : Prop :=
  ∀ s t : State, step s = .next t → s.nextIsReset = false →
    (s.fsm ≠ .idle → t.cmd = s.cmd ∧ t.srcPresent = s.srcPresent) ∧
    (s.fsm ≠ .wrHdr → t.addr = s.addr) ∧
    (s.fsm ≠ .rdRecv → s.fsm ≠ .wrFetch →
      t.frame = s.frame ∧ t.frameLen = s.frameLen ∧ t.chunk = s.chunk ∧ t.chunkLen = s.chunkLen)

/-- No step changes the parameters (R5, R20) or the source (R55), reset included. That the source is fixed is the spec's
assumption D20 (log 24). -/
def Obligations.ParametersAndSourceAreFixed : Prop :=
  ∀ s t : State, step s = .next t → t.cfg = s.cfg ∧ t.env.source = s.env.source

/-- The sink is only ever appended to, and only with a prefix of the chunk an outstanding append carries (R54). -/
def Obligations.SinkGrowsOnlyByTheOutstandingAppend : Prop :=
  ∀ s t : State, step s = .next t →
    t.env.sink = s.env.sink ∨
    (s.fsm = .rdStore ∧ ∃ bs, bs <+: s.chunkBytes ∧ t.env.sink = Memory.append s.env.sink bs)

/-- Device bytes are consumed in the order sent (R57), and never more than the outstanding request's size; none are taken
when no receive is outstanding. What an RxErr loses (log 21) and what a reset takes (log 17) are included; that a received
group loses and doubles none is said by `ReceiveTransition` and `HeaderTransition`. -/
def Obligations.ReceivedBytesAreTheNextOnes : Prop :=
  ∀ s t : State, step s = .next t →
    ∃ g : List Byte, s.env.rxStream = g ++ t.env.rxStream ∧
      (g ≠ [] → (s.fsm = .rdRecv ∧ g.length ≤ s.cfg.frameMax) ∨ (s.fsm = .wrHdr ∧ g.length ≤ 2))

/-- What reaches the device in a step is a prefix of the outstanding TX request (R58), and nothing without one. -/
def Obligations.SentBytesAreAPrefixOfTheRequest : Prop :=
  ∀ s t : State, step s = .next t →
    ∃ bs : List Byte, t.env.txSent = s.env.txSent ++ bs ∧
      (bs ≠ [] → ∃ q, s.outstanding = some (.txSend q) ∧ bs <+: q)

/-- R9, R61: outside reset a transition adds to the run's events nothing, or the one request it leaves outstanding, or
Close, or a Fault and Close. -/
def Obligations.TransitionIssuesAtMostOneRequest : Prop :=
  ∀ s t : State, s.Inv → step s = .next t → s.nextIsReset = false →
    t.trace = s.trace ∨
    (∃ r, t.outstanding = some r ∧ t.trace = s.trace ++ [.request r]) ∨
    (t.fsm = .done ∧ t.trace = s.trace ++ [.close]) ∨
    (t.fsm = .fault ∧ ∃ f, t.trace = s.trace ++ [.fault f, .close])

/-- R55: reading `n` bytes at `a` of a source that holds the byte string `S` gives `S[a .. min(a + n, len S))`. -/
def Obligations.SourceReadIsTheSlice : Prop :=
  ∀ (S : List Byte) (a n : Nat), Memory.readRun (Memory.ofBytes S) a n = (S.drop a).take n

/-- R64, which the spec marks as its own inference, for every step of every state: under Permissive two states alike in
control step to states alike in control, or both stop with the same fault. So neither the characters of a frame nor any
other data reach control but by the paths of R64; in WR_HDR the path is the header, so there its two bytes agree. -/
def Obligations.FrameContentsNeverReachControl : Prop :=
  ∀ s t : State, SameControl s t → s.cfg.decodeMode = .permissive →
    (s.fsm = .wrHdr → t.env.rxStream.take 2 = s.env.rxStream.take 2) →
    (∃ s' t', step s = .next s' ∧ step t = .next t' ∧ SameControl s' t') ∨
    ((s.fsm.isReserved = true ∨ s.fsm = .sendCmd) ∧ ∃ e, step s = .fault e ∧ step t = .fault e)

/-! ### Whole sessions -/

/-- R167 (the spec's own inference), 95_test_vectors.md W5: from the start of a Read session, if the device's even-length groups carry exactly
2 * CHIP_SIZE characters and every append succeeds, the session ends with OK and a total of CHIP_SIZE, and the sink has
gained exactly the decode of the groups, in order. -/
def Obligations.ReadSessionStoresTheWholeImage : Prop :=
  ∀ (s : State) (groups : List (List Byte)) (tail : List Byte) (rest : List Input),
    s.Inv → s.fsm = .rdRecv → s.offset = 0#16 → s.cfg.decodeMode = .permissive →
    (∀ g ∈ groups, g.length % 2 = 0 ∧ g.length ≤ s.cfg.frameMax) →
    groups.flatten.length = 2 * s.cfg.chipSize →
    s.env.rxStream = groups.flatten ++ tail →
    s.env.inputs = groups.flatMap (fun g => [.rx (.group g.length), .sink .ok]) ++ rest →
    ∃ (t : State) (c : List Byte), Sys2Proof.core.run (2 * groups.length) s = .next t ∧ t.fsm = .done ∧
      t.status = .ok ∧ t.totalO.toNat = s.cfg.chipSize ∧ decodeFrame groups.flatten = some c ∧
      t.env.sink = Memory.append s.env.sink c ∧ t.env.rxStream = tail ∧ t.env.inputs = rest

/-- R187 (the spec's own inference), 95_test_vectors.md W7 and W8: whatever addresses below CHIP_SIZE the device sends, in any order and with repeats,
the Write session reads the source at each of them in turn, sends one whole frame for each (where no read is short, the
encoding of exactly the source's bytes there), and ends with OK on the first header at or above CHIP_SIZE. -/
def Obligations.WriteSessionServesEveryHeader : Prop :=
  ∀ (s : State) (addrs : List Half) (last : Half) (tail : List Byte) (rest : List Input),
    s.Inv → s.fsm = .wrHdr → s.cfg.shortReadPolicy ≠ .fail →
    (∀ a ∈ addrs, a.toNat < s.cfg.chipSize) → s.cfg.chipSize ≤ last.toNat →
    s.env.rxStream =
      addrs.flatMap (splitHeader s.cfg.addrOrder) ++ splitHeader s.cfg.addrOrder last ++ tail →
    s.env.inputs =
      addrs.flatMap (fun _ => [.rx (.group 2), .src .data, .tx (.written s.cfg.frameMax)]) ++ .rx (.group 2) :: rest →
    ∃ t : State, Sys2Proof.core.run (3 * addrs.length + 1) s = .next t ∧ t.fsm = .done ∧ t.status = .ok ∧
      t.addr = last ∧ t.env.rxStream = tail ∧ t.env.inputs = rest ∧
      t.trace.filterMap Event.readAddr? = s.trace.filterMap Event.readAddr? ++ addrs ∧
      t.env.txSent.length = s.env.txSent.length + addrs.length * s.cfg.frameMax ∧
      ((∀ a ∈ addrs, (Memory.readRun s.env.source a.toNat s.cfg.bufferSize).length = s.cfg.bufferSize) →
        t.env.txSent = s.env.txSent ++
          addrs.flatMap (fun a => encodeChunk (Memory.readRun s.env.source a.toNat s.cfg.bufferSize)))

/-- R64 (the spec's own inference), over a whole run: under Permissive, from two states of a Read session that are alike in
control, runs of any length before a reset go on and stay alike in control, whatever characters the device sent. -/
def Obligations.ReadSessionsStayAlikeInControl : Prop :=
  ∀ (k : Nat) (s t : State), SameControl s t → s.cfg.decodeMode = .permissive →
    s.fsm = .rdRecv ∨ s.fsm = .rdStore ∨ s.fsm = .done ∨ s.fsm = .fault →
    (∀ inp ∈ s.env.inputs.take k, inp.isReset = false) →
    ∃ s' t' : State, Sys2Proof.core.run k s = .next s' ∧ Sys2Proof.core.run k t = .next t' ∧ SameControl s' t'
end

