-- ==== Sys2Proof/Laws/Codec.lean ====
section
/-! SUPPORT. The small laws of the codec's functions (40_hex_codec.md): one character, one byte, lengths. -/

namespace Sys2Proof.Machine

theorem decDigit_encNib : ∀ v : Nibble, decDigit (encNib v) = v := by decide

theorem isDigit_encNib : ∀ v : Nibble, isDigit (encNib v) = true := by decide

theorem encNib_decDigit : ∀ ch : Byte, isDigit ch = true → encNib (decDigit ch) = ch := by decide

theorem decDigit_of_not_digit : ∀ ch : Byte, isDigit ch = false → decDigit ch = 0#4 := by decide

theorem joinNibbles_split : ∀ b : Byte, joinNibbles (b.extractLsb' 4 4) (b.extractLsb' 0 4) = b := by decide

theorem high_joinNibbles : ∀ hi lo : Nibble, (joinNibbles hi lo).extractLsb' 4 4 = hi := by decide

theorem low_joinNibbles : ∀ hi lo : Nibble, (joinNibbles hi lo).extractLsb' 0 4 = lo := by decide

@[simp] theorem encodeChunk_nil : encodeChunk [] = [] := rfl

@[simp] theorem encodeChunk_cons (b : Byte) (c : List Byte) : encodeChunk (b :: c) = encByte b ++ encodeChunk c := rfl

@[simp] theorem length_encodeChunk (c : List Byte) : (encodeChunk c).length = 2 * c.length := by
  induction c with
  | nil => rfl
  | cons b c ih => simp [encByte, ih]; omega

theorem length_packNibbles : ∀ vs : List Nibble, (packNibbles vs).length = vs.length / 2
  | [] => rfl
  | [_] => by simp [packNibbles]
  | _ :: _ :: vs => by simp only [packNibbles, List.length_cons, length_packNibbles vs]; omega

/-- `decode` packs the digits' nibbles (R116, R117). -/
theorem decodeFrame_eq_pack : ∀ f : List Byte, f.length % 2 = 0 → decodeFrame f = some (packNibbles (f.map decDigit))
  | [], _ => rfl
  | [_], h => by simp at h
  | hi :: lo :: f, h => by
    rw [decodeFrame, decodeFrame_eq_pack f (by simpa [Nat.add_assoc] using h)]
    rfl

/-- `decode` has no result for an odd length (R117). -/
theorem decodeFrame_odd : ∀ f : List Byte, f.length % 2 = 1 → decodeFrame f = none
  | [], h => by simp at h
  | [_], _ => rfl
  | _ :: _ :: f, h => by
    rw [decodeFrame, decodeFrame_odd f (by simpa [Nat.add_assoc] using h)]
    rfl

@[simp] theorem length_overwrite (old new : List Byte) : (overwrite old new).length = max new.length old.length := by
  simp [overwrite]; omega

@[simp] theorem take_overwrite (old new : List Byte) : (overwrite old new).take new.length = new := by
  simp [overwrite]

theorem frameLenOk_iff (n : Nat) : frameLenOk n = true ↔ n % 2 = 0 := by simp [frameLenOk]

end Sys2Proof.Machine
end

