-- ==== Sys2Proof/Laws/Memory.lean ====
section
/-! SUPPORT. What reading and writing a byte store does, and that every operation keeps the canonical form. -/

namespace Sys2Proof.Machine

@[simp] theorem Memory.read_nil (a : Nat) : Memory.read [] a = none := rfl

theorem Memory.read_write_same (m : Memory) (a : Nat) (b : Byte) : Memory.read (Memory.write m a b) a = some b := by
  induction m with
  | nil => simp [Memory.write, Memory.read]
  | cons c m ih =>
    obtain ⟨k, c⟩ := c
    unfold Memory.write
    split
    · simp [Memory.read]
    · split
      · simp [Memory.read]
      · next h => rw [Memory.read, if_neg (Ne.symm h), ih]

theorem Memory.read_write_other (m : Memory) {a a' : Nat} (b : Byte) (h : a' ≠ a) :
    Memory.read (Memory.write m a b) a' = Memory.read m a' := by
  induction m with
  | nil => simp [Memory.write, Memory.read, Ne.symm h]
  | cons c m ih =>
    obtain ⟨k, c⟩ := c
    unfold Memory.write
    split
    · rw [Memory.read, if_neg (Ne.symm h)]
    · split
      · next hk => subst hk; rw [Memory.read, Memory.read, if_neg (Ne.symm h), if_neg (Ne.symm h)]
      · rw [Memory.read, Memory.read, ih]

theorem Memory.mem_write {m : Memory} {a : Nat} {b : Byte} {c : Host.Cell} (h : c ∈ Memory.write m a b) :
    c = (a, b) ∨ c ∈ m := by
  induction m with
  | nil => simpa [Memory.write] using h
  | cons d m ih =>
    obtain ⟨k, d⟩ := d
    unfold Memory.write at h
    split at h
    · simpa using h
    · split at h
      · rcases List.mem_cons.1 h with h | h
        · exact .inl h
        · exact .inr (List.mem_cons_of_mem _ h)
      · rcases List.mem_cons.1 h with h | h
        · exact .inr (h ▸ List.mem_cons_self)
        · exact (ih h).imp id (List.mem_cons_of_mem _)

/-- A write keeps the canonical form. -/
theorem Memory.wf_write {m : Memory} (a : Nat) (b : Byte) (h : Memory.wf m) : Memory.wf (Memory.write m a b) := by
  induction m with
  | nil => simp [Memory.write]
  | cons c m ih =>
    obtain ⟨k, c⟩ := c
    obtain ⟨hk, hm⟩ := List.pairwise_cons.1 h
    unfold Memory.write
    split
    · next hlt =>
      refine List.pairwise_cons.2 ⟨fun x hx => ?_, h⟩
      rcases List.mem_cons.1 hx with rfl | hx
      · exact hlt
      · exact lt_trans hlt (hk x hx)
    · split
      · next heq => subst heq; exact List.pairwise_cons.2 ⟨hk, hm⟩
      · refine List.pairwise_cons.2 ⟨fun x hx => ?_, ih hm⟩
        rcases Memory.mem_write hx with rfl | hx
        · simp only; omega
        · exact hk x hx

theorem Memory.wf_writeRun {m : Memory} (a : Nat) (bs : List Byte) (h : Memory.wf m) :
    Memory.wf (Memory.writeRun m a bs) := by
  induction bs generalizing m a with
  | nil => exact h
  | cons b bs ih => exact ih _ (Memory.wf_write a b h)

/-- An append keeps the canonical form. -/
theorem Memory.wf_append {m : Memory} (bs : List Byte) (h : Memory.wf m) : Memory.wf (Memory.append m bs) :=
  Memory.wf_writeRun _ bs h

theorem Memory.read_writeRun_outside (m : Memory) (a : Nat) (bs : List Byte) {x : Nat}
    (h : x < a ∨ a + bs.length ≤ x) : Memory.read (Memory.writeRun m a bs) x = Memory.read m x := by
  induction bs generalizing m a with
  | nil => rfl
  | cons b bs ih =>
    rw [List.length_cons] at h
    rw [Memory.writeRun, ih _ _ (by omega), Memory.read_write_other _ _ (by omega)]

theorem Memory.read_writeRun_inside (m : Memory) (a : Nat) (bs : List Byte) {j : Nat} (h : j < bs.length) :
    Memory.read (Memory.writeRun m a bs) (a + j) = bs[j]? := by
  induction bs generalizing m a j with
  | nil => simp at h
  | cons b bs ih =>
    rw [Memory.writeRun]
    cases j with
    | zero => rw [Memory.read_writeRun_outside _ _ _ (by omega)]; simp [Memory.read_write_same]
    | succ j =>
      have := ih (Memory.write m a b) (a + 1) (j := j) (by simpa using h)
      rw [show a + (j + 1) = a + 1 + j by omega, this]; simp

theorem Memory.lt_endAddr {m : Memory} (h : Memory.wf m) {c : Host.Cell} (hc : c ∈ m) : c.1 < Memory.endAddr m := by
  induction m generalizing c with
  | nil => simp at hc
  | cons d m ih =>
    obtain ⟨hk, hm⟩ := List.pairwise_cons.1 h
    cases m with
    | nil =>
      obtain ⟨k, d⟩ := d
      simp only [List.mem_singleton] at hc
      subst hc
      simp [Memory.endAddr]
    | cons e m =>
      rw [Memory.endAddr]
      rcases List.mem_cons.1 hc with rfl | hc
      · exact lt_trans (hk e (by simp)) (ih hm (by simp))
      · exact ih hm hc

theorem Memory.write_endAddr {m : Memory} (h : Memory.wf m) {a : Nat} (ha : Memory.endAddr m ≤ a) (b : Byte) :
    Memory.write m a b = m ++ [(a, b)] := by
  induction m with
  | nil => rfl
  | cons d m ih =>
    obtain ⟨k, d⟩ := d
    have hk : k < Memory.endAddr ((k, d) :: m) := Memory.lt_endAddr h (c := (k, d)) (by simp)
    have hm := (List.pairwise_cons.1 h).2
    rw [Memory.write, if_neg (by omega), if_neg (by omega), List.cons_append]
    congr 1
    cases m with
    | nil => rfl
    | cons e m => exact ih hm (by simpa [Memory.endAddr] using ha)

theorem Memory.endAddr_snoc (m : Memory) (a : Nat) (b : Byte) : Memory.endAddr (m ++ [(a, b)]) = a + 1 := by
  induction m with
  | nil => rfl
  | cons d m ih => cases m with
    | nil => rfl
    | cons e m => simpa [Memory.endAddr] using ih

theorem Memory.endAddr_append {m : Memory} (h : Memory.wf m) (bs : List Byte) :
    Memory.endAddr (Memory.append m bs) = Memory.endAddr m + bs.length := by
  have main : ∀ (bs : List Byte) (m : Memory) (a : Nat), Memory.wf m → a = Memory.endAddr m →
      Memory.endAddr (Memory.writeRun m a bs) = a + bs.length := by
    intro bs
    induction bs with
    | nil => intro m a _ ha; simp [Memory.writeRun, ha]
    | cons b bs ih =>
      intro m a hm ha
      have he : Memory.endAddr (Memory.write m a b) = a + 1 := by
        rw [Memory.write_endAddr hm ha.ge, Memory.endAddr_snoc]
      rw [Memory.writeRun, ih _ _ (Memory.wf_write a b hm) he.symm, List.length_cons]
      omega
  exact main bs m _ h rfl

theorem Memory.writeRun_append (m : Memory) (a : Nat) (xs ys : List Byte) :
    Memory.writeRun m a (xs ++ ys) = Memory.writeRun (Memory.writeRun m a xs) (a + xs.length) ys := by
  induction xs generalizing m a with
  | nil => simp [Memory.writeRun]
  | cons x xs ih =>
    rw [List.cons_append, Memory.writeRun, Memory.writeRun, ih, List.length_cons]
    congr 1
    omega

/-- Two appends are one append of both runs. -/
theorem Memory.append_append {m : Memory} (h : Memory.wf m) (xs ys : List Byte) :
    Memory.append (Memory.append m xs) ys = Memory.append m (xs ++ ys) := by
  rw [Memory.append, Memory.endAddr_append h, Memory.append, Memory.append, Memory.writeRun_append]

@[simp] theorem Memory.append_nil (m : Memory) : Memory.append m [] = m := rfl

theorem Memory.length_readRun_le (m : Memory) (a n : Nat) : (Memory.readRun m a n).length ≤ n := by
  induction n generalizing a with
  | zero => simp [Memory.readRun]
  | succ n ih =>
    rw [Memory.readRun]
    split
    · simpa using ih (a + 1)
    · simp

end Sys2Proof.Machine
end

