-- ==== Sys2Proof/Laws/State.lean ====
section
/-! SUPPORT. One lemma per field per named update of the state, true by rfl, so that no later proof unfolds an update. -/

namespace Sys2Proof.Machine

variable (s : State)

/-! ### issue -/

@[simp] theorem State.issue_cfg (r : Request) (p : Phase) : (s.issue r p).cfg = s.cfg := rfl
@[simp] theorem State.issue_fsm (r : Request) (p : Phase) : (s.issue r p).fsm = p := rfl
@[simp] theorem State.issue_cmd (r : Request) (p : Phase) : (s.issue r p).cmd = s.cmd := rfl
@[simp] theorem State.issue_srcPresent (r : Request) (p : Phase) : (s.issue r p).srcPresent = s.srcPresent := rfl
@[simp] theorem State.issue_offset (r : Request) (p : Phase) : (s.issue r p).offset = s.offset := rfl
@[simp] theorem State.issue_addr (r : Request) (p : Phase) : (s.issue r p).addr = s.addr := rfl
@[simp] theorem State.issue_frame (r : Request) (p : Phase) : (s.issue r p).frame = s.frame := rfl
@[simp] theorem State.issue_frameLen (r : Request) (p : Phase) : (s.issue r p).frameLen = s.frameLen := rfl
@[simp] theorem State.issue_chunk (r : Request) (p : Phase) : (s.issue r p).chunk = s.chunk := rfl
@[simp] theorem State.issue_chunkLen (r : Request) (p : Phase) : (s.issue r p).chunkLen = s.chunkLen := rfl
@[simp] theorem State.issue_status (r : Request) (p : Phase) : (s.issue r p).status = s.status := rfl
@[simp] theorem State.issue_closed (r : Request) (p : Phase) : (s.issue r p).closed = s.closed := rfl
@[simp] theorem State.issue_decoded (r : Request) (p : Phase) : (s.issue r p).decoded = s.decoded := rfl
@[simp] theorem State.issue_draws (r : Request) (p : Phase) : (s.issue r p).draws = s.draws := rfl
@[simp] theorem State.issue_trace (r : Request) (p : Phase) : (s.issue r p).trace = s.trace ++ [.request r] := rfl
@[simp] theorem State.issue_env (r : Request) (p : Phase) : (s.issue r p).env = s.env := rfl

/-! ### raise -/

@[simp] theorem State.raise_cfg (f : BlockFault) : (s.raise f).cfg = s.cfg := rfl
@[simp] theorem State.raise_fsm (f : BlockFault) : (s.raise f).fsm = .fault := rfl
@[simp] theorem State.raise_cmd (f : BlockFault) : (s.raise f).cmd = s.cmd := rfl
@[simp] theorem State.raise_srcPresent (f : BlockFault) : (s.raise f).srcPresent = s.srcPresent := rfl
@[simp] theorem State.raise_offset (f : BlockFault) : (s.raise f).offset = s.offset := rfl
@[simp] theorem State.raise_addr (f : BlockFault) : (s.raise f).addr = s.addr := rfl
@[simp] theorem State.raise_frame (f : BlockFault) : (s.raise f).frame = s.frame := rfl
@[simp] theorem State.raise_frameLen (f : BlockFault) : (s.raise f).frameLen = s.frameLen := rfl
@[simp] theorem State.raise_chunk (f : BlockFault) : (s.raise f).chunk = s.chunk := rfl
@[simp] theorem State.raise_chunkLen (f : BlockFault) : (s.raise f).chunkLen = s.chunkLen := rfl
@[simp] theorem State.raise_status (f : BlockFault) : (s.raise f).status = f.status := rfl
@[simp] theorem State.raise_closed (f : BlockFault) : (s.raise f).closed = true := rfl
@[simp] theorem State.raise_decoded (f : BlockFault) : (s.raise f).decoded = [] := rfl
@[simp] theorem State.raise_draws (f : BlockFault) : (s.raise f).draws = s.draws := rfl
@[simp] theorem State.raise_trace (f : BlockFault) : (s.raise f).trace = s.trace ++ [.fault f, .close] := rfl
@[simp] theorem State.raise_env (f : BlockFault) : (s.raise f).env = s.env := rfl

/-! ### enterDone -/

@[simp] theorem State.enterDone_cfg (st : Status) : (s.enterDone st).cfg = s.cfg := rfl
@[simp] theorem State.enterDone_fsm (st : Status) : (s.enterDone st).fsm = .done := rfl
@[simp] theorem State.enterDone_cmd (st : Status) : (s.enterDone st).cmd = s.cmd := rfl
@[simp] theorem State.enterDone_srcPresent (st : Status) : (s.enterDone st).srcPresent = s.srcPresent := rfl
@[simp] theorem State.enterDone_offset (st : Status) : (s.enterDone st).offset = s.offset := rfl
@[simp] theorem State.enterDone_addr (st : Status) : (s.enterDone st).addr = s.addr := rfl
@[simp] theorem State.enterDone_frame (st : Status) : (s.enterDone st).frame = s.frame := rfl
@[simp] theorem State.enterDone_frameLen (st : Status) : (s.enterDone st).frameLen = s.frameLen := rfl
@[simp] theorem State.enterDone_chunk (st : Status) : (s.enterDone st).chunk = s.chunk := rfl
@[simp] theorem State.enterDone_chunkLen (st : Status) : (s.enterDone st).chunkLen = s.chunkLen := rfl
@[simp] theorem State.enterDone_status (st : Status) : (s.enterDone st).status = st := rfl
@[simp] theorem State.enterDone_closed (st : Status) : (s.enterDone st).closed = true := rfl
@[simp] theorem State.enterDone_decoded (st : Status) : (s.enterDone st).decoded = s.decoded := rfl
@[simp] theorem State.enterDone_draws (st : Status) : (s.enterDone st).draws = s.draws := rfl
@[simp] theorem State.enterDone_trace (st : Status) : (s.enterDone st).trace = s.trace ++ [.close] := rfl
@[simp] theorem State.enterDone_env (st : Status) : (s.enterDone st).env = s.env := rfl

/-! ### deliver -/

@[simp] theorem State.deliver_cfg (bs : List Byte) : (s.deliver bs).cfg = s.cfg := rfl
@[simp] theorem State.deliver_fsm (bs : List Byte) : (s.deliver bs).fsm = s.fsm := rfl
@[simp] theorem State.deliver_cmd (bs : List Byte) : (s.deliver bs).cmd = s.cmd := rfl
@[simp] theorem State.deliver_srcPresent (bs : List Byte) : (s.deliver bs).srcPresent = s.srcPresent := rfl
@[simp] theorem State.deliver_offset (bs : List Byte) : (s.deliver bs).offset = s.offset := rfl
@[simp] theorem State.deliver_addr (bs : List Byte) : (s.deliver bs).addr = s.addr := rfl
@[simp] theorem State.deliver_frame (bs : List Byte) : (s.deliver bs).frame = s.frame := rfl
@[simp] theorem State.deliver_frameLen (bs : List Byte) : (s.deliver bs).frameLen = s.frameLen := rfl
@[simp] theorem State.deliver_chunk (bs : List Byte) : (s.deliver bs).chunk = s.chunk := rfl
@[simp] theorem State.deliver_chunkLen (bs : List Byte) : (s.deliver bs).chunkLen = s.chunkLen := rfl
@[simp] theorem State.deliver_status (bs : List Byte) : (s.deliver bs).status = s.status := rfl
@[simp] theorem State.deliver_closed (bs : List Byte) : (s.deliver bs).closed = s.closed := rfl
@[simp] theorem State.deliver_decoded (bs : List Byte) : (s.deliver bs).decoded = s.decoded := rfl
@[simp] theorem State.deliver_draws (bs : List Byte) : (s.deliver bs).draws = s.draws := rfl
@[simp] theorem State.deliver_trace (bs : List Byte) : (s.deliver bs).trace = s.trace := rfl
@[simp] theorem State.deliver_env (bs : List Byte) : (s.deliver bs).env = { s.env with txSent := s.env.txSent ++ bs } := rfl

/-! ### takeRx -/

@[simp] theorem State.takeRx_cfg (max n : Nat) : (s.takeRx max n).cfg = s.cfg := rfl
@[simp] theorem State.takeRx_fsm (max n : Nat) : (s.takeRx max n).fsm = s.fsm := rfl
@[simp] theorem State.takeRx_cmd (max n : Nat) : (s.takeRx max n).cmd = s.cmd := rfl
@[simp] theorem State.takeRx_srcPresent (max n : Nat) : (s.takeRx max n).srcPresent = s.srcPresent := rfl
@[simp] theorem State.takeRx_offset (max n : Nat) : (s.takeRx max n).offset = s.offset := rfl
@[simp] theorem State.takeRx_addr (max n : Nat) : (s.takeRx max n).addr = s.addr := rfl
@[simp] theorem State.takeRx_frame (max n : Nat) : (s.takeRx max n).frame = s.frame := rfl
@[simp] theorem State.takeRx_frameLen (max n : Nat) : (s.takeRx max n).frameLen = s.frameLen := rfl
@[simp] theorem State.takeRx_chunk (max n : Nat) : (s.takeRx max n).chunk = s.chunk := rfl
@[simp] theorem State.takeRx_chunkLen (max n : Nat) : (s.takeRx max n).chunkLen = s.chunkLen := rfl
@[simp] theorem State.takeRx_status (max n : Nat) : (s.takeRx max n).status = s.status := rfl
@[simp] theorem State.takeRx_closed (max n : Nat) : (s.takeRx max n).closed = s.closed := rfl
@[simp] theorem State.takeRx_decoded (max n : Nat) : (s.takeRx max n).decoded = s.decoded := rfl
@[simp] theorem State.takeRx_draws (max n : Nat) : (s.takeRx max n).draws = s.draws := rfl
@[simp] theorem State.takeRx_trace (max n : Nat) : (s.takeRx max n).trace = s.trace := rfl
@[simp] theorem State.takeRx_env (max n : Nat) : (s.takeRx max n).env = { s.env with rxStream := s.env.rxStream.drop (min n max) } := rfl

/-! ### appendSink -/

@[simp] theorem State.appendSink_cfg (bs : List Byte) : (s.appendSink bs).cfg = s.cfg := rfl
@[simp] theorem State.appendSink_fsm (bs : List Byte) : (s.appendSink bs).fsm = s.fsm := rfl
@[simp] theorem State.appendSink_cmd (bs : List Byte) : (s.appendSink bs).cmd = s.cmd := rfl
@[simp] theorem State.appendSink_srcPresent (bs : List Byte) : (s.appendSink bs).srcPresent = s.srcPresent := rfl
@[simp] theorem State.appendSink_offset (bs : List Byte) : (s.appendSink bs).offset = s.offset := rfl
@[simp] theorem State.appendSink_addr (bs : List Byte) : (s.appendSink bs).addr = s.addr := rfl
@[simp] theorem State.appendSink_frame (bs : List Byte) : (s.appendSink bs).frame = s.frame := rfl
@[simp] theorem State.appendSink_frameLen (bs : List Byte) : (s.appendSink bs).frameLen = s.frameLen := rfl
@[simp] theorem State.appendSink_chunk (bs : List Byte) : (s.appendSink bs).chunk = s.chunk := rfl
@[simp] theorem State.appendSink_chunkLen (bs : List Byte) : (s.appendSink bs).chunkLen = s.chunkLen := rfl
@[simp] theorem State.appendSink_status (bs : List Byte) : (s.appendSink bs).status = s.status := rfl
@[simp] theorem State.appendSink_closed (bs : List Byte) : (s.appendSink bs).closed = s.closed := rfl
@[simp] theorem State.appendSink_decoded (bs : List Byte) : (s.appendSink bs).decoded = s.decoded := rfl
@[simp] theorem State.appendSink_draws (bs : List Byte) : (s.appendSink bs).draws = s.draws := rfl
@[simp] theorem State.appendSink_trace (bs : List Byte) : (s.appendSink bs).trace = s.trace := rfl
@[simp] theorem State.appendSink_env (bs : List Byte) : (s.appendSink bs).env = { s.env with sink := Memory.append s.env.sink bs } := rfl

/-! ### withInputs -/

@[simp] theorem State.withInputs_cfg (rest : List Input) : (s.withInputs rest).cfg = s.cfg := rfl
@[simp] theorem State.withInputs_fsm (rest : List Input) : (s.withInputs rest).fsm = s.fsm := rfl
@[simp] theorem State.withInputs_cmd (rest : List Input) : (s.withInputs rest).cmd = s.cmd := rfl
@[simp] theorem State.withInputs_srcPresent (rest : List Input) : (s.withInputs rest).srcPresent = s.srcPresent := rfl
@[simp] theorem State.withInputs_offset (rest : List Input) : (s.withInputs rest).offset = s.offset := rfl
@[simp] theorem State.withInputs_addr (rest : List Input) : (s.withInputs rest).addr = s.addr := rfl
@[simp] theorem State.withInputs_frame (rest : List Input) : (s.withInputs rest).frame = s.frame := rfl
@[simp] theorem State.withInputs_frameLen (rest : List Input) : (s.withInputs rest).frameLen = s.frameLen := rfl
@[simp] theorem State.withInputs_chunk (rest : List Input) : (s.withInputs rest).chunk = s.chunk := rfl
@[simp] theorem State.withInputs_chunkLen (rest : List Input) : (s.withInputs rest).chunkLen = s.chunkLen := rfl
@[simp] theorem State.withInputs_status (rest : List Input) : (s.withInputs rest).status = s.status := rfl
@[simp] theorem State.withInputs_closed (rest : List Input) : (s.withInputs rest).closed = s.closed := rfl
@[simp] theorem State.withInputs_decoded (rest : List Input) : (s.withInputs rest).decoded = s.decoded := rfl
@[simp] theorem State.withInputs_draws (rest : List Input) : (s.withInputs rest).draws = s.draws := rfl
@[simp] theorem State.withInputs_trace (rest : List Input) : (s.withInputs rest).trace = s.trace := rfl
@[simp] theorem State.withInputs_env (rest : List Input) : (s.withInputs rest).env = { s.env with inputs := rest } := rfl

/-! ### present -/

@[simp] theorem State.present_cfg (b : Bool) : (s.present b).cfg = s.cfg := rfl
@[simp] theorem State.present_fsm (b : Bool) : (s.present b).fsm = s.fsm := rfl
@[simp] theorem State.present_cmd (b : Bool) : (s.present b).cmd = s.cmd := rfl
@[simp] theorem State.present_srcPresent (b : Bool) : (s.present b).srcPresent = s.srcPresent := rfl
@[simp] theorem State.present_offset (b : Bool) : (s.present b).offset = s.offset := rfl
@[simp] theorem State.present_addr (b : Bool) : (s.present b).addr = s.addr := rfl
@[simp] theorem State.present_frame (b : Bool) : (s.present b).frame = s.frame := rfl
@[simp] theorem State.present_frameLen (b : Bool) : (s.present b).frameLen = s.frameLen := rfl
@[simp] theorem State.present_chunk (b : Bool) : (s.present b).chunk = s.chunk := rfl
@[simp] theorem State.present_chunkLen (b : Bool) : (s.present b).chunkLen = s.chunkLen := rfl
@[simp] theorem State.present_status (b : Bool) : (s.present b).status = s.status := rfl
@[simp] theorem State.present_closed (b : Bool) : (s.present b).closed = s.closed := rfl
@[simp] theorem State.present_decoded (b : Bool) : (s.present b).decoded = s.decoded := rfl
@[simp] theorem State.present_draws (b : Bool) : (s.present b).draws = s.draws := rfl
@[simp] theorem State.present_trace (b : Bool) : (s.present b).trace = s.trace := rfl
@[simp] theorem State.present_env (b : Bool) : (s.present b).env = { s.env with srcPresentIn := b } := rfl

/-! ### latch -/

@[simp] theorem State.latch_cfg (b : Byte) : (s.latch b).cfg = s.cfg := rfl
@[simp] theorem State.latch_fsm (b : Byte) : (s.latch b).fsm = s.fsm := rfl
@[simp] theorem State.latch_cmd (b : Byte) : (s.latch b).cmd = b := rfl
@[simp] theorem State.latch_srcPresent (b : Byte) : (s.latch b).srcPresent = s.env.srcPresentIn := rfl
@[simp] theorem State.latch_offset (b : Byte) : (s.latch b).offset = s.offset := rfl
@[simp] theorem State.latch_addr (b : Byte) : (s.latch b).addr = s.addr := rfl
@[simp] theorem State.latch_frame (b : Byte) : (s.latch b).frame = s.frame := rfl
@[simp] theorem State.latch_frameLen (b : Byte) : (s.latch b).frameLen = s.frameLen := rfl
@[simp] theorem State.latch_chunk (b : Byte) : (s.latch b).chunk = s.chunk := rfl
@[simp] theorem State.latch_chunkLen (b : Byte) : (s.latch b).chunkLen = s.chunkLen := rfl
@[simp] theorem State.latch_status (b : Byte) : (s.latch b).status = s.status := rfl
@[simp] theorem State.latch_closed (b : Byte) : (s.latch b).closed = s.closed := rfl
@[simp] theorem State.latch_decoded (b : Byte) : (s.latch b).decoded = s.decoded := rfl
@[simp] theorem State.latch_draws (b : Byte) : (s.latch b).draws = s.draws := rfl
@[simp] theorem State.latch_trace (b : Byte) : (s.latch b).trace = s.trace := rfl
@[simp] theorem State.latch_env (b : Byte) : (s.latch b).env = s.env := rfl

/-! ### pushNibble -/

@[simp] theorem State.pushNibble_cfg (v : Nibble) : (s.pushNibble v).cfg = s.cfg := rfl
@[simp] theorem State.pushNibble_fsm (v : Nibble) : (s.pushNibble v).fsm = s.fsm := rfl
@[simp] theorem State.pushNibble_cmd (v : Nibble) : (s.pushNibble v).cmd = s.cmd := rfl
@[simp] theorem State.pushNibble_srcPresent (v : Nibble) : (s.pushNibble v).srcPresent = s.srcPresent := rfl
@[simp] theorem State.pushNibble_offset (v : Nibble) : (s.pushNibble v).offset = s.offset := rfl
@[simp] theorem State.pushNibble_addr (v : Nibble) : (s.pushNibble v).addr = s.addr := rfl
@[simp] theorem State.pushNibble_frame (v : Nibble) : (s.pushNibble v).frame = s.frame := rfl
@[simp] theorem State.pushNibble_frameLen (v : Nibble) : (s.pushNibble v).frameLen = s.frameLen := rfl
@[simp] theorem State.pushNibble_chunk (v : Nibble) : (s.pushNibble v).chunk = s.chunk := rfl
@[simp] theorem State.pushNibble_chunkLen (v : Nibble) : (s.pushNibble v).chunkLen = s.chunkLen := rfl
@[simp] theorem State.pushNibble_status (v : Nibble) : (s.pushNibble v).status = s.status := rfl
@[simp] theorem State.pushNibble_closed (v : Nibble) : (s.pushNibble v).closed = s.closed := rfl
@[simp] theorem State.pushNibble_decoded (v : Nibble) : (s.pushNibble v).decoded = s.decoded ++ [v] := rfl
@[simp] theorem State.pushNibble_draws (v : Nibble) : (s.pushNibble v).draws = s.draws := rfl
@[simp] theorem State.pushNibble_trace (v : Nibble) : (s.pushNibble v).trace = s.trace := rfl
@[simp] theorem State.pushNibble_env (v : Nibble) : (s.pushNibble v).env = s.env := rfl

/-! ### storeFrame -/

@[simp] theorem State.storeFrame_cfg (g : List Byte) : (s.storeFrame g).cfg = s.cfg := rfl
@[simp] theorem State.storeFrame_fsm (g : List Byte) : (s.storeFrame g).fsm = .rdStore := rfl
@[simp] theorem State.storeFrame_cmd (g : List Byte) : (s.storeFrame g).cmd = s.cmd := rfl
@[simp] theorem State.storeFrame_srcPresent (g : List Byte) : (s.storeFrame g).srcPresent = s.srcPresent := rfl
@[simp] theorem State.storeFrame_offset (g : List Byte) : (s.storeFrame g).offset = s.offset := rfl
@[simp] theorem State.storeFrame_addr (g : List Byte) : (s.storeFrame g).addr = s.addr := rfl
@[simp] theorem State.storeFrame_frame (g : List Byte) : (s.storeFrame g).frame = overwrite s.frame g := rfl
@[simp] theorem State.storeFrame_frameLen (g : List Byte) : (s.storeFrame g).frameLen = BitVec.ofNat 8 g.length := rfl
@[simp] theorem State.storeFrame_chunk (g : List Byte) : (s.storeFrame g).chunk = overwrite s.chunk (packNibbles s.decoded) := rfl
@[simp] theorem State.storeFrame_chunkLen (g : List Byte) : (s.storeFrame g).chunkLen = BitVec.ofNat 7 (g.length / 2) := rfl
@[simp] theorem State.storeFrame_status (g : List Byte) : (s.storeFrame g).status = s.status := rfl
@[simp] theorem State.storeFrame_closed (g : List Byte) : (s.storeFrame g).closed = s.closed := rfl
@[simp] theorem State.storeFrame_decoded (g : List Byte) : (s.storeFrame g).decoded = [] := rfl
@[simp] theorem State.storeFrame_draws (g : List Byte) : (s.storeFrame g).draws = s.draws := rfl
@[simp] theorem State.storeFrame_trace (g : List Byte) : (s.storeFrame g).trace = s.trace ++ [.request (.memWrite (packNibbles s.decoded))] := rfl
@[simp] theorem State.storeFrame_env (g : List Byte) : (s.storeFrame g).env = s.env := rfl

/-! ### sendChunk -/

@[simp] theorem State.sendChunk_cfg (c : List Byte) (n : Nat) : (s.sendChunk c n).cfg = s.cfg := rfl
@[simp] theorem State.sendChunk_fsm (c : List Byte) (n : Nat) : (s.sendChunk c n).fsm = .wrSend := rfl
@[simp] theorem State.sendChunk_cmd (c : List Byte) (n : Nat) : (s.sendChunk c n).cmd = s.cmd := rfl
@[simp] theorem State.sendChunk_srcPresent (c : List Byte) (n : Nat) : (s.sendChunk c n).srcPresent = s.srcPresent := rfl
@[simp] theorem State.sendChunk_offset (c : List Byte) (n : Nat) : (s.sendChunk c n).offset = s.offset := rfl
@[simp] theorem State.sendChunk_addr (c : List Byte) (n : Nat) : (s.sendChunk c n).addr = s.addr := rfl
@[simp] theorem State.sendChunk_frame (c : List Byte) (n : Nat) : (s.sendChunk c n).frame = encodeChunk c := rfl
@[simp] theorem State.sendChunk_frameLen (c : List Byte) (n : Nat) : (s.sendChunk c n).frameLen = BitVec.ofNat 8 s.cfg.frameMax := rfl
@[simp] theorem State.sendChunk_chunk (c : List Byte) (n : Nat) : (s.sendChunk c n).chunk = c := rfl
@[simp] theorem State.sendChunk_chunkLen (c : List Byte) (n : Nat) : (s.sendChunk c n).chunkLen = BitVec.ofNat 7 s.cfg.bufferSize := rfl
@[simp] theorem State.sendChunk_status (c : List Byte) (n : Nat) : (s.sendChunk c n).status = s.status := rfl
@[simp] theorem State.sendChunk_closed (c : List Byte) (n : Nat) : (s.sendChunk c n).closed = s.closed := rfl
@[simp] theorem State.sendChunk_decoded (c : List Byte) (n : Nat) : (s.sendChunk c n).decoded = s.decoded := rfl
@[simp] theorem State.sendChunk_draws (c : List Byte) (n : Nat) : (s.sendChunk c n).draws = s.draws + n := rfl
@[simp] theorem State.sendChunk_trace (c : List Byte) (n : Nat) : (s.sendChunk c n).trace = s.trace ++ [.request (.txSend ((encodeChunk c).take s.cfg.frameMax))] := rfl
@[simp] theorem State.sendChunk_env (c : List Byte) (n : Nat) : (s.sendChunk c n).env = s.env := rfl

/-! ### enterReadSession -/

@[simp] theorem State.enterReadSession_cfg : s.enterReadSession.cfg = s.cfg := rfl
@[simp] theorem State.enterReadSession_fsm : s.enterReadSession.fsm = .rdRecv := rfl
@[simp] theorem State.enterReadSession_cmd : s.enterReadSession.cmd = s.cmd := rfl
@[simp] theorem State.enterReadSession_srcPresent : s.enterReadSession.srcPresent = s.srcPresent := rfl
@[simp] theorem State.enterReadSession_offset : s.enterReadSession.offset = 0#16 := rfl
@[simp] theorem State.enterReadSession_addr : s.enterReadSession.addr = s.addr := rfl
@[simp] theorem State.enterReadSession_frame : s.enterReadSession.frame = s.frame := rfl
@[simp] theorem State.enterReadSession_frameLen : s.enterReadSession.frameLen = s.frameLen := rfl
@[simp] theorem State.enterReadSession_chunk : s.enterReadSession.chunk = s.chunk := rfl
@[simp] theorem State.enterReadSession_chunkLen : s.enterReadSession.chunkLen = s.chunkLen := rfl
@[simp] theorem State.enterReadSession_status : s.enterReadSession.status = s.status := rfl
@[simp] theorem State.enterReadSession_closed : s.enterReadSession.closed = s.closed := rfl
@[simp] theorem State.enterReadSession_decoded : s.enterReadSession.decoded = s.decoded := rfl
@[simp] theorem State.enterReadSession_draws : s.enterReadSession.draws = s.draws := rfl
@[simp] theorem State.enterReadSession_trace : s.enterReadSession.trace = s.trace ++ [.request (.rxRecv s.cfg.frameMax)] := rfl
@[simp] theorem State.enterReadSession_env : s.enterReadSession.env = s.env := rfl

/-! ### enterWriteSession -/

@[simp] theorem State.enterWriteSession_cfg : s.enterWriteSession.cfg = s.cfg := rfl
@[simp] theorem State.enterWriteSession_fsm : s.enterWriteSession.fsm = .wrHdr := rfl
@[simp] theorem State.enterWriteSession_cmd : s.enterWriteSession.cmd = s.cmd := rfl
@[simp] theorem State.enterWriteSession_srcPresent : s.enterWriteSession.srcPresent = s.srcPresent := rfl
@[simp] theorem State.enterWriteSession_offset : s.enterWriteSession.offset = s.offset := rfl
@[simp] theorem State.enterWriteSession_addr : s.enterWriteSession.addr = s.addr := rfl
@[simp] theorem State.enterWriteSession_frame : s.enterWriteSession.frame = s.frame := rfl
@[simp] theorem State.enterWriteSession_frameLen : s.enterWriteSession.frameLen = s.frameLen := rfl
@[simp] theorem State.enterWriteSession_chunk : s.enterWriteSession.chunk = s.chunk := rfl
@[simp] theorem State.enterWriteSession_chunkLen : s.enterWriteSession.chunkLen = s.chunkLen := rfl
@[simp] theorem State.enterWriteSession_status : s.enterWriteSession.status = s.status := rfl
@[simp] theorem State.enterWriteSession_closed : s.enterWriteSession.closed = s.closed := rfl
@[simp] theorem State.enterWriteSession_decoded : s.enterWriteSession.decoded = s.decoded := rfl
@[simp] theorem State.enterWriteSession_draws : s.enterWriteSession.draws = s.draws := rfl
@[simp] theorem State.enterWriteSession_trace : s.enterWriteSession.trace = s.trace ++ [.request (.rxRecv 2)] := rfl
@[simp] theorem State.enterWriteSession_env : s.enterWriteSession.env = s.env := rfl

/-! ### sendCommand -/

@[simp] theorem State.sendCommand_cfg (b : Byte) : (s.sendCommand b).cfg = s.cfg := rfl
@[simp] theorem State.sendCommand_fsm (b : Byte) : (s.sendCommand b).fsm = .sendCmd := rfl
@[simp] theorem State.sendCommand_cmd (b : Byte) : (s.sendCommand b).cmd = b := rfl
@[simp] theorem State.sendCommand_srcPresent (b : Byte) : (s.sendCommand b).srcPresent = s.env.srcPresentIn := rfl
@[simp] theorem State.sendCommand_offset (b : Byte) : (s.sendCommand b).offset = s.offset := rfl
@[simp] theorem State.sendCommand_addr (b : Byte) : (s.sendCommand b).addr = s.addr := rfl
@[simp] theorem State.sendCommand_frame (b : Byte) : (s.sendCommand b).frame = s.frame := rfl
@[simp] theorem State.sendCommand_frameLen (b : Byte) : (s.sendCommand b).frameLen = s.frameLen := rfl
@[simp] theorem State.sendCommand_chunk (b : Byte) : (s.sendCommand b).chunk = s.chunk := rfl
@[simp] theorem State.sendCommand_chunkLen (b : Byte) : (s.sendCommand b).chunkLen = s.chunkLen := rfl
@[simp] theorem State.sendCommand_status (b : Byte) : (s.sendCommand b).status = s.status := rfl
@[simp] theorem State.sendCommand_closed (b : Byte) : (s.sendCommand b).closed = s.closed := rfl
@[simp] theorem State.sendCommand_decoded (b : Byte) : (s.sendCommand b).decoded = s.decoded := rfl
@[simp] theorem State.sendCommand_draws (b : Byte) : (s.sendCommand b).draws = s.draws := rfl
@[simp] theorem State.sendCommand_trace (b : Byte) : (s.sendCommand b).trace = s.trace ++ [.request (.txSend [b])] := rfl
@[simp] theorem State.sendCommand_env (b : Byte) : (s.sendCommand b).env = s.env := rfl

/-! ### resetWith -/

@[simp] theorem State.resetWith_cfg (p : Params) (n : Nat) (e : Env) : (State.resetWith p n e).cfg = p := rfl
@[simp] theorem State.resetWith_fsm (p : Params) (n : Nat) (e : Env) : (State.resetWith p n e).fsm = .idle := rfl
@[simp] theorem State.resetWith_cmd (p : Params) (n : Nat) (e : Env) : (State.resetWith p n e).cmd = 0x00#8 := rfl
@[simp] theorem State.resetWith_srcPresent (p : Params) (n : Nat) (e : Env) : (State.resetWith p n e).srcPresent = false := rfl
@[simp] theorem State.resetWith_offset (p : Params) (n : Nat) (e : Env) : (State.resetWith p n e).offset = 0#16 := rfl
@[simp] theorem State.resetWith_addr (p : Params) (n : Nat) (e : Env) : (State.resetWith p n e).addr = 0x0000#16 := rfl
@[simp] theorem State.resetWith_frame (p : Params) (n : Nat) (e : Env) : (State.resetWith p n e).frame = List.replicate p.frameMax 0x00#8 := rfl
@[simp] theorem State.resetWith_frameLen (p : Params) (n : Nat) (e : Env) : (State.resetWith p n e).frameLen = 0#8 := rfl
@[simp] theorem State.resetWith_chunk (p : Params) (n : Nat) (e : Env) : (State.resetWith p n e).chunk = List.replicate p.bufferSize 0x00#8 := rfl
@[simp] theorem State.resetWith_chunkLen (p : Params) (n : Nat) (e : Env) : (State.resetWith p n e).chunkLen = 0#7 := rfl
@[simp] theorem State.resetWith_status (p : Params) (n : Nat) (e : Env) : (State.resetWith p n e).status = .noResult := rfl
@[simp] theorem State.resetWith_closed (p : Params) (n : Nat) (e : Env) : (State.resetWith p n e).closed = false := rfl
@[simp] theorem State.resetWith_decoded (p : Params) (n : Nat) (e : Env) : (State.resetWith p n e).decoded = [] := rfl
@[simp] theorem State.resetWith_draws (p : Params) (n : Nat) (e : Env) : (State.resetWith p n e).draws = n := rfl
@[simp] theorem State.resetWith_trace (p : Params) (n : Nat) (e : Env) : (State.resetWith p n e).trace = [] := rfl
@[simp] theorem State.resetWith_env (p : Params) (n : Nat) (e : Env) : (State.resetWith p n e).env = e := rfl

end Sys2Proof.Machine
end

