-- ==== Sys2Proof/Laws/Control.lean ====
section
/-! SUPPORT. Each shared operation keeps two states alike in control (`SameControl`), and which sizes alike states share. -/

namespace Sys2Proof.Machine

theorem SameControl.refl (s : State) : SameControl s s :=
  ⟨rfl, rfl, rfl, rfl, rfl, rfl, rfl, rfl, rfl, rfl, rfl, rfl, rfl, rfl, rfl, rfl, rfl, fun _ => rfl⟩

variable {s t : State}

theorem map_const_eq {p q : List Byte} (h : p.length = q.length) :
    (p.map fun _ => 0x00#8) = q.map fun _ => 0x00#8 := by
  simp [List.map_const', h]

/-- How many bytes a source read returns depends on which addresses hold a byte, and on no byte. -/
theorem Memory.length_readRun_congr {m m' : Memory} (h : m'.map Prod.fst = m.map Prod.fst) (a n : Nat) :
    (Memory.readRun m' a n).length = (Memory.readRun m a n).length := by
  have hs : ∀ (m : Memory) (a : Nat), (Memory.read m a).isSome = decide (a ∈ m.map Prod.fst) := by
    intro m a
    induction m with
    | nil => simp
    | cons c m ih => by_cases hk : c.1 = a <;> simp_all [Memory.read, eq_comm]
  induction n generalizing a with
  | zero => rfl
  | succ n ih =>
    have he : (Memory.read m' a).isSome = (Memory.read m a).isSome := by rw [hs, hs, h]
    rw [Memory.readRun, Memory.readRun]
    cases h1 : Memory.read m' a <;> cases h2 : Memory.read m a <;> simp_all

theorem SameControl.length_rxGroup (h : SameControl s t) (max n : Nat) :
    (t.rxGroup max n).length = (s.rxGroup max n).length := by
  simp [State.rxGroup, h.rxStream_length]

theorem SameControl.length_frameBytes (h : SameControl s t) : t.frameBytes.length = s.frameBytes.length := by
  simp [State.frameBytes, h.frame_length, h.cfg]

theorem TxAnswer.response_congr (a : TxAnswer) {p q : List Byte} (h : p.length = q.length) :
    a.response p = a.response q := by
  cases a <;> simp [TxAnswer.response, h]

theorem TxAnswer.length_delivered_congr (a : TxAnswer) {p q : List Byte} (h : p.length = q.length) :
    (a.delivered p).length = (a.delivered q).length := by
  cases a <;> simp [TxAnswer.delivered, h]

theorem SameControl.withInputs (h : SameControl s t) (rest : List Input) :
    SameControl (s.withInputs rest) (t.withInputs rest) := { h with inputs := rfl }

theorem SameControl.present (h : SameControl s t) (sp : Bool) : SameControl (s.present sp) (t.present sp) :=
  { h with srcPresentIn := rfl }

theorem SameControl.latch (h : SameControl s t) (b : Byte) : SameControl (s.latch b) (t.latch b) :=
  { h with cmd := rfl, srcPresent := h.srcPresentIn }

theorem SameControl.issue (h : SameControl s t) {r r' : Request} (p : Phase)
    (hr : Event.shape (.request r') = Event.shape (.request r)) : SameControl (s.issue r p) (t.issue r' p) :=
  { h with fsm := rfl, trace_shape := by simp [h.trace_shape, hr] }

theorem SameControl.raise (h : SameControl s t) (f : BlockFault) : SameControl (s.raise f) (t.raise f) :=
  { h with fsm := rfl, status := rfl, closed := rfl, decoded_length := rfl, trace_shape := by simp [h.trace_shape] }

theorem SameControl.enterDone (h : SameControl s t) (st : Status) : SameControl (s.enterDone st) (t.enterDone st) :=
  { h with fsm := rfl, status := rfl, closed := rfl, trace_shape := by simp [h.trace_shape] }

theorem SameControl.setOffset (h : SameControl s t) (o : Half) :
    SameControl { s with offset := o } { t with offset := o } := { h with offset := rfl }

theorem SameControl.setAddr (h : SameControl s t) (a : Half) :
    SameControl { s with addr := a } { t with addr := a } := { h with addr := rfl }

theorem SameControl.deliver (h : SameControl s t) {p q : List Byte} (hl : q.length = p.length) :
    SameControl (s.deliver p) (t.deliver q) := { h with txSent_length := by simp [h.txSent_length, hl] }

theorem SameControl.takeRx (h : SameControl s t) (max n : Nat) : SameControl (s.takeRx max n) (t.takeRx max n) :=
  { h with rxStream_length := by simp [h.rxStream_length] }

/-- What goes to the sink reaches no control. -/
theorem SameControl.appendSink (h : SameControl s t) (p q : List Byte) :
    SameControl (s.appendSink p) (t.appendSink q) := { h with }

theorem SameControl.resetAction (h : SameControl s t) (k : Nat) : SameControl (s.resetAction k) (t.resetAction k) := by
  have ha : SameControl (s.abandon k) (t.abandon k) := by
    unfold State.abandon State.outstanding
    rw [h.fsm]
    cases s.fsm
    case sendCmd => exact h.deliver (by simp)
    case wrSend => exact h.deliver (by simp [h.length_frameBytes])
    case rdRecv => simp only [h.cfg]; exact h.takeRx _ _
    case wrHdr => exact h.takeRx _ _
    case rdStore => exact h.appendSink _ _
    all_goals exact h
  exact {
    cfg := h.cfg, fsm := rfl, cmd := rfl, srcPresent := rfl, offset := rfl, addr := rfl
    frame_length := by simp [State.resetAction, h.cfg]
    frameLen := rfl, chunkLen := rfl, status := rfl, closed := rfl, decoded_length := rfl, trace_shape := rfl
    inputs := ha.inputs, srcPresentIn := ha.srcPresentIn, rxStream_length := ha.rxStream_length
    txSent_length := ha.txSent_length
    source_addresses := fun hp => ha.source_addresses (by
      rw [show (s.abandon k).cfg = s.cfg by unfold State.abandon; split <;> rfl]; exact hp) }

/-- Frames of one length, stored, whatever their characters. -/
theorem SameControl.storeFrame (h : SameControl s t) {f g : List Byte} (hl : g.length = f.length) :
    SameControl (s.storeFrame f) (t.storeFrame g) :=
  { h with
    fsm := rfl
    frame_length := by simp [hl, h.frame_length]
    frameLen := by simp [hl]
    chunkLen := by simp [hl]
    decoded_length := rfl
    trace_shape := by
      have hp : (packNibbles t.decoded).length = (packNibbles s.decoded).length := by
        simp [length_packNibbles, h.decoded_length]
      simp [h.trace_shape, Event.shape, map_const_eq hp] }

/-- Chunks of one length, sent, whatever their bytes and however many of them were drawn. -/
theorem SameControl.sendChunk (h : SameControl s t) {c d : List Byte} (hl : d.length = c.length) (m n : Nat) :
    SameControl (s.sendChunk c m) (t.sendChunk d n) :=
  { h with
    fsm := rfl
    frame_length := by simp [hl]
    frameLen := by simp [h.cfg]
    chunkLen := by simp [h.cfg]
    trace_shape := by
      have hp : ((encodeChunk d).take t.cfg.frameMax).length = ((encodeChunk c).take s.cfg.frameMax).length := by
        simp [hl, h.cfg]
      simp only [State.sendChunk, State.issue, List.map_append, List.map_cons, List.map_nil, Event.shape, h.trace_shape,
        map_const_eq hp] }

end Sys2Proof.Machine
end

