-- ==== Sys2Proof/Laws/Digit.lean ====
section
/-! SUPPORT. What one frame character does, and what a whole frame does. -/

namespace Sys2Proof.Machine

theorem takeDigit_rdRecv {s : State} (h : s.fsm = .rdRecv) (v : Nibble) : takeDigit v s = .next (s.pushNibble v) :=
  if_pos h

/-- The sixteen digit characters (R86). -/
theorem isDigit_mem : ∀ c : Byte, isDigit c = true → c ∈ [0x30#8, 0x31#8, 0x32#8, 0x33#8, 0x34#8, 0x35#8, 0x36#8,
    0x37#8, 0x38#8, 0x39#8, 0x41#8, 0x42#8, 0x43#8, 0x44#8, 0x45#8, 0x46#8] := by decide

theorem decodeDigit_invalid : ∀ ch : Byte, isDigit ch = false → decodeDigit ch = .digInvalid ch := by decide

/-- The instruction of a digit character is a digit of the codec's value. -/
theorem exec_decodeDigit_valid {ch : Byte} (h : isDigit ch = true) (s : State) :
    exec (decodeDigit ch) s = takeDigit (decDigit ch) s := by
  have hm := isDigit_mem ch h
  simp only [List.mem_cons, List.not_mem_nil, or_false] at hm
  rcases hm with rfl | rfl | rfl | rfl | rfl | rfl | rfl | rfl | rfl | rfl | rfl | rfl | rfl | rfl | rfl | rfl <;> rfl

/-- One character in RD_RECV, when the mode admits it: its nibble is the next decoded digit. -/
theorem exec_decodeDigit {s : State} (hs : s.fsm = .rdRecv) (ch : Byte)
    (hm : s.cfg.decodeMode = .permissive ∨ isDigit ch = true) :
    exec (decodeDigit ch) s = .next (s.pushNibble (decDigit ch)) := by
  cases hd : isDigit ch with
  | true => rw [exec_decodeDigit_valid hd, takeDigit_rdRecv hs]
  | false =>
    have hp : s.cfg.decodeMode = .permissive := hm.resolve_right (by simp [hd])
    rw [decodeDigit_invalid ch hd, decDigit_of_not_digit ch hd]
    simp [exec, execDigInvalid, hs, hp]

/-- A whole frame in RD_RECV, when the mode admits every character. -/
theorem execFrame_eq (g : List Byte) {s : State} (hs : s.fsm = .rdRecv)
    (hm : s.cfg.decodeMode = .permissive ∨ frameDigitsOk g = true) :
    execFrame g s = .next { s with decoded := s.decoded ++ g.map decDigit } := by
  induction g generalizing s with
  | nil => simp [execFrame]
  | cons ch g ih =>
    have h1 : s.cfg.decodeMode = .permissive ∨ isDigit ch = true := hm.imp id (fun h => by simp_all [frameDigitsOk])
    have h2 : s.cfg.decodeMode = .permissive ∨ frameDigitsOk g = true := hm.imp id (fun h => by simp_all [frameDigitsOk])
    rw [execFrame, exec_decodeDigit hs ch h1]
    simp only
    rw [ih (s := s.pushNibble (decDigit ch)) hs h2]
    simp [State.pushNibble]

/-- Decode and store, once: a Strict frame with a character that is no digit faults; any other frame is stored. -/
theorem decodeAndStore_eq (g : List Byte) {s : State} (hs : s.fsm = .rdRecv) :
    decodeAndStore g s =
      if s.cfg.decodeMode = .strict ∧ frameDigitsOk g = false then .next (s.raise .badHexDigit)
      else .next (State.storeFrame { s with decoded := s.decoded ++ g.map decDigit } g) := by
  unfold decodeAndStore
  split
  · rfl
  · next h =>
    have hm : s.cfg.decodeMode = .permissive ∨ frameDigitsOk g = true := by
      cases hd : s.cfg.decodeMode <;> cases hf : frameDigitsOk g <;> simp_all
    rw [execFrame_eq g hs hm]

end Sys2Proof.Machine
end

