-- ==== Sys2Proof/Laws/PerInstr.lean ====
section
/-! SUPPORT. Facts about every instruction as syntax, one lemma per constructor: an encoding is as long as its format
says (30_encoding.md R80). -/

namespace Sys2Proof.Laws

/-- The encoding of `i` has its format's number of bytes. -/
def EncodeWidth.Statement (i : Instr) : Prop := ∀ p : Params, (encode p i).length = i.format.bytes

theorem length_splitHeader (o : AddrOrder) (a : Half) : (splitHeader o a).length = 2 := by cases o <;> rfl

theorem EncodeWidth.read : EncodeWidth.Statement .read := fun _ => rfl
theorem EncodeWidth.write : EncodeWidth.Statement .write := fun _ => rfl
theorem EncodeWidth.erase : EncodeWidth.Statement .erase := fun _ => rfl
theorem EncodeWidth.unlock : EncodeWidth.Statement .unlock := fun _ => rfl
theorem EncodeWidth.cmdIllegal (b : Byte) : EncodeWidth.Statement (.cmdIllegal b) := fun _ => rfl
theorem EncodeWidth.hdrServe (a : Half) : EncodeWidth.Statement (.hdrServe a) := fun _ => length_splitHeader _ a
theorem EncodeWidth.hdrEnd (a : Half) : EncodeWidth.Statement (.hdrEnd a) := fun _ => length_splitHeader _ a
theorem EncodeWidth.dig0 : EncodeWidth.Statement .dig0 := fun _ => rfl
theorem EncodeWidth.dig1 : EncodeWidth.Statement .dig1 := fun _ => rfl
theorem EncodeWidth.dig2 : EncodeWidth.Statement .dig2 := fun _ => rfl
theorem EncodeWidth.dig3 : EncodeWidth.Statement .dig3 := fun _ => rfl
theorem EncodeWidth.dig4 : EncodeWidth.Statement .dig4 := fun _ => rfl
theorem EncodeWidth.dig5 : EncodeWidth.Statement .dig5 := fun _ => rfl
theorem EncodeWidth.dig6 : EncodeWidth.Statement .dig6 := fun _ => rfl
theorem EncodeWidth.dig7 : EncodeWidth.Statement .dig7 := fun _ => rfl
theorem EncodeWidth.dig8 : EncodeWidth.Statement .dig8 := fun _ => rfl
theorem EncodeWidth.dig9 : EncodeWidth.Statement .dig9 := fun _ => rfl
theorem EncodeWidth.digA : EncodeWidth.Statement .digA := fun _ => rfl
theorem EncodeWidth.digB : EncodeWidth.Statement .digB := fun _ => rfl
theorem EncodeWidth.digC : EncodeWidth.Statement .digC := fun _ => rfl
theorem EncodeWidth.digD : EncodeWidth.Statement .digD := fun _ => rfl
theorem EncodeWidth.digE : EncodeWidth.Statement .digE := fun _ => rfl
theorem EncodeWidth.digF : EncodeWidth.Statement .digF := fun _ => rfl
theorem EncodeWidth.digInvalid (ch : Byte) : EncodeWidth.Statement (.digInvalid ch) := fun _ => rfl

end Sys2Proof.Laws
end

