-- ==== Sys2Proof/Laws/Step.lean ====
section
/-! SUPPORT. Everything a step can do, said once: `step_moves`. An invariant of the machine is then a case analysis on
`Moves`, with no unfolding of `step`. -/

namespace Sys2Proof.Machine

/-- Every transition a single input other than reset can cause, with its guard. `s` is the state with that input consumed. -/
inductive Moves (s : State) : State → Prop where
  /-- The input means nothing in this state. -/
  | ignored : Moves s s
  | startIgnored (sp : Bool) (h : s.fsm ≠ .idle) : Moves s (s.present sp)
  | startSent (sp : Bool) (b : Byte) (h : s.fsm = .idle) (hb : b = 0x52#8 ∨ b = 0x57#8 ∨ b = 0x55#8) :
      Moves s ((s.present sp).sendCommand b)
  | startErase (sp : Bool) (h : s.fsm = .idle) : Moves s (((s.present sp).latch 0x45#8).enterDone .notImplemented)
  | startFault (sp : Bool) (f : BlockFault) (h : s.fsm = .idle) : Moves s ((s.present sp).raise f)
  | commandFault (bs : List Byte) (f : BlockFault) (h : s.fsm = .sendCmd) (hb : bs <+: [s.cmd]) :
      Moves s ((s.deliver bs).raise f)
  | commandRead (bs : List Byte) (h : s.fsm = .sendCmd) (hc : s.cmd = 0x52#8) (hb : bs = [s.cmd]) :
      Moves s (s.deliver bs).enterReadSession
  | commandWrite (bs : List Byte) (h : s.fsm = .sendCmd) (hc : s.cmd = 0x57#8) (hb : bs = [s.cmd]) :
      Moves s (s.deliver bs).enterWriteSession
  | commandUnlock (bs : List Byte) (h : s.fsm = .sendCmd) (hc : s.cmd = 0x55#8) (hb : bs = [s.cmd]) :
      Moves s ((s.deliver bs).enterDone .ok)
  | frameFault (n : Nat) (f : BlockFault) (h : s.fsm = .rdRecv) : Moves s ((s.takeRx s.cfg.frameMax n).raise f)
  | frameStored (n : Nat) (h : s.fsm = .rdRecv) (he : (s.rxGroup s.cfg.frameMax n).length % 2 = 0) :
      Moves s (State.storeFrame
        { s.takeRx s.cfg.frameMax n with decoded := s.decoded ++ (s.rxGroup s.cfg.frameMax n).map decDigit }
        (s.rxGroup s.cfg.frameMax n))
  | sinkFault (k : Nat) (h : s.fsm = .rdStore) : Moves s ((s.appendSink (s.chunkBytes.take k)).raise .sinkError)
  | storeDone (h : s.fsm = .rdStore) (hc : s.cfg.chipSize ≤ s.nextOffset.toNat) :
      Moves s (State.enterDone { s.appendSink s.chunkBytes with offset := s.nextOffset } .ok)
  | storeLoop (h : s.fsm = .rdStore) (hc : s.nextOffset.toNat < s.cfg.chipSize) :
      Moves s (State.issue { s.appendSink s.chunkBytes with offset := s.nextOffset } (.rxRecv s.cfg.frameMax) .rdRecv)
  | headerFault (n : Nat) (f : BlockFault) (h : s.fsm = .wrHdr) : Moves s ((s.takeRx 2 n).raise f)
  | headerServe (n : Nat) (a : Half) (h : s.fsm = .wrHdr) (ha : a.toNat < s.cfg.chipSize) :
      Moves s (State.issue { s.takeRx 2 n with addr := a } (.memRead a s.cfg.bufferSize) .wrFetch)
  | headerEnd (n : Nat) (a : Half) (h : s.fsm = .wrHdr) (ha : s.cfg.chipSize ≤ a.toNat) :
      Moves s (State.enterDone { s.takeRx 2 n with addr := a } .ok)
  | fetchFault (f : BlockFault) (h : s.fsm = .wrFetch) : Moves s (s.raise f)
  | fetchSent (c : List Byte) (n : Nat) (h : s.fsm = .wrFetch) (hc : c.length = s.cfg.bufferSize) :
      Moves s (s.sendChunk c n)
  | sendFault (bs : List Byte) (f : BlockFault) (h : s.fsm = .wrSend) (hb : bs <+: s.frameBytes) :
      Moves s ((s.deliver bs).raise f)
  | sendDone (bs : List Byte) (h : s.fsm = .wrSend) (hb : bs <+: s.frameBytes) :
      Moves s (State.issue (s.deliver bs) (.rxRecv 2) .wrHdr)

theorem TxAnswer.delivered_prefix (a : TxAnswer) (q : List Byte) : a.delivered q <+: q := by
  cases a <;> exact List.take_prefix _ _

/-- The whole of a one-byte request was sent when its count says so. -/
theorem TxAnswer.delivered_of_written_one {a : TxAnswer} {b : Byte} (h : a.response [b] = .written 1) :
    a.delivered [b] = [b] := by
  cases a with
  | err k => simp [TxAnswer.response] at h
  | written w =>
    have hw : 1 ≤ w := by simpa [TxAnswer.response] using h
    exact List.take_of_length_le hw

/-- What the case of R142 can do. -/
theorem dispatchCommand_cases {u t : State} (h : u.dispatchCommand = .next t) :
    (u.cmd = 0x52#8 ∧ t = u.enterReadSession) ∨
    (u.cmd = 0x57#8 ∧ (t = u.raise .missingInput ∨ t = u.enterWriteSession)) ∨
    (u.cmd = 0x55#8 ∧ t = u.enterDone .ok) := by
  unfold State.dispatchCommand at h
  split_ifs at h with hR hW hm hU <;> cases h <;> simp_all

theorem commandByteAnswer_moves {a : TxAnswer} {s t : State} (hs : s.fsm = .sendCmd)
    (h : commandByteAnswer a s = .next t) : Moves s t := by
  unfold commandByteAnswer at h
  split at h
  · next hw =>
    have hd := TxAnswer.delivered_of_written_one hw
    rcases dispatchCommand_cases h with ⟨hc, rfl⟩ | ⟨hc, rfl | rfl⟩ | ⟨hc, rfl⟩
    · exact .commandRead _ hs hc hd
    · exact .commandFault _ _ hs (TxAnswer.delivered_prefix _ _)
    · exact .commandWrite _ hs hc hd
    · exact .commandUnlock _ hs hc hd
  · cases h; exact .commandFault _ _ hs (TxAnswer.delivered_prefix _ _)

theorem frameAnswer_moves {a : RxAnswer} {s t : State} (hs : s.fsm = .rdRecv) (h : frameAnswer a s = .next t) :
    Moves s t := by
  cases a with
  | err k => cases h; exact .frameFault k _ hs
  | group n =>
    simp only [frameAnswer] at h
    split at h
    · next he =>
      rw [decodeAndStore_eq _ (s := s.takeRx s.cfg.frameMax n) hs] at h
      split at h
      · cases h; exact .frameFault n _ hs
      · cases h; exact .frameStored n hs ((frameLenOk_iff _).1 he)
    · cases h; exact .frameFault n _ hs

theorem headerAnswer_moves {a : RxAnswer} {s t : State} (hs : s.fsm = .wrHdr) (h : headerAnswer a s = .next t) :
    Moves s t := by
  cases a with
  | err k => cases h; exact .headerFault k _ hs
  | group n =>
    simp only [headerAnswer] at h
    rcases hg : s.rxGroup 2 n with _ | ⟨h0, _ | ⟨h1, _ | ⟨h2, g⟩⟩⟩ <;>
      simp only [hg, decodeAs, classifyHeader] at h
    · cases h; exact .headerFault n _ hs
    · cases h; exact .headerFault n _ hs
    · split at h
      · next hlt =>
        simp only [exec, execHdrServe, State.takeRx_fsm, hs, if_true] at h
        cases h; exact .headerServe n _ hs hlt
      · next hge =>
        simp only [exec, execHdrEnd, State.takeRx_fsm, hs, if_true] at h
        cases h; exact .headerEnd n _ hs (not_lt.1 hge)
    · cases h; exact .headerFault n _ hs

theorem storeAnswer_moves (a : SinkAnswer) {s : State} (hs : s.fsm = .rdStore) : Moves s (storeAnswer a s) := by
  cases a with
  | err k => exact .sinkFault k hs
  | ok =>
    simp only [storeAnswer]
    split
    · next h => exact .storeDone hs h
    · next h => exact .storeLoop hs (not_le.1 h)

theorem fetchAnswer_moves (a : SrcAnswer) {s : State} (hs : s.fsm = .wrFetch) : Moves s (fetchAnswer a s) := by
  cases a with
  | err => exact .fetchFault _ hs
  | data =>
    simp only [fetchAnswer]
    split
    · next fill hf =>
      refine .fetchSent _ _ hs ?_
      have hle := Memory.length_readRun_le s.env.source s.addr.toNat s.cfg.bufferSize
      unfold State.fillBytes at hf
      split at hf
      · cases hf; simp [drawnBytes, State.readSource]; omega
      · cases hf; simp [State.readSource]; omega
      · split at hf
        · cases hf
        · cases hf; simp only [State.readSource, List.append_nil] at *; omega
    · exact .fetchFault _ hs

theorem sendAnswer_moves (a : TxAnswer) {s : State} (hs : s.fsm = .wrSend) : Moves s (sendAnswer a s) := by
  unfold sendAnswer
  split
  · exact .sendDone _ hs (TxAnswer.delivered_prefix _ _)
  · exact .sendFault _ _ hs (TxAnswer.delivered_prefix _ _)

theorem start_moves {c : Byte} {sp : Bool} {s t : State} (hs : s.fsm = .idle)
    (h : exec (decodeCmd c) (s.present sp) = .next t) : Moves s t := by
  unfold decodeCmd at h
  split_ifs at h <;> simp only [exec, execRead, execWrite, execErase, execUnlock, execCmdIllegal, State.present_fsm, hs,
    if_true] at h
  · cases h; exact .startSent sp _ hs (.inl rfl)
  · split at h
    · cases h; exact .startFault sp _ hs
    · cases h; exact .startSent sp _ hs (.inr (.inl rfl))
  · cases h; exact .startErase sp hs
  · cases h; exact .startSent sp _ hs (.inr (.inr rfl))
  · cases h; exact .startFault sp _ hs

theorem react_moves {inp : Input} {s t : State} (hr : inp.isReset = false) (h : react inp s = .next t) : Moves s t := by
  cases inp <;> simp only [react] at h
  case reset k => cases hr
  case start c sp =>
    split at h
    · next hs => exact start_moves hs h
    · next hs => cases h; exact .startIgnored sp hs
  case tx a =>
    split_ifs at h with h1 h2
    · exact commandByteAnswer_moves h1 h
    · cases h; exact sendAnswer_moves a h2
    · cases h; exact .ignored
  case rx a =>
    split_ifs at h with h1 h2
    · exact frameAnswer_moves h1 h
    · exact headerAnswer_moves h2 h
    · cases h; exact .ignored
  case sink a =>
    split at h
    · next hs => cases h; exact storeAnswer_moves a hs
    · cases h; exact .ignored
  case src a =>
    split at h
    · next hs => cases h; exact fetchAnswer_moves a hs
    · cases h; exact .ignored

/-- A step that answers a next state waits, with nothing presented, or is a reset, or consumes one input and makes one of
`Moves`. -/
theorem step_moves {s t : State} (h : step s = .next t) :
    (s.env.inputs = [] ∧ t = s) ∨
    (∃ k rest, s.env.inputs = .reset k :: rest ∧ t = (s.withInputs rest).resetAction k) ∨
    ∃ inp rest, s.env.inputs = inp :: rest ∧ inp.isReset = false ∧ Moves (s.withInputs rest) t := by
  simp only [step, advance] at h
  split at h
  · next hi =>
    split at h
    · cases h
    · cases h; exact .inl ⟨hi, rfl⟩
  · next inp rest hi =>
    split at h
    · cases h
    · cases hr : inp.isReset with
      | true =>
        cases inp with
        | reset k => cases h; exact .inr (.inl ⟨k, rest, hi, rfl⟩)
        | _ => cases hr
      | false => exact .inr (.inr ⟨inp, rest, hi, hr, react_moves hr h⟩)

end Sys2Proof.Machine
end

