-- ==== Sys2Proof/Laws/Transitions.lean ====
section
/-! SUPPORT. One equation per transition: what `step`, `react` and the answers compute under their guards. Cite these
instead of unfolding. -/

namespace Sys2Proof.Machine

theorem step_input {s : State} {inp : Input} {rest : List Input} (hr : s.fsm.isReserved = false)
    (hi : s.env.inputs = inp :: rest) : step s = react inp (s.withInputs rest) := by
  simp [step, advance, hi, hr]

theorem step_wait {s : State} (hr : s.fsm.isReserved = false) (hi : s.env.inputs = []) : step s = .next s := by
  simp [step, advance, hi, hr]

theorem step_reset {s : State} {k : Nat} {rest : List Input} (hi : s.env.inputs = .reset k :: rest) :
    step s = .next ((s.withInputs rest).resetAction k) := by
  simp [step, advance, hi, react, Input.isReset]

theorem step_reserved {s : State} (hr : s.fsm.isReserved = true)
    (hi : ∀ k rest, s.env.inputs ≠ .reset k :: rest) : step s = .fault (.reservedState s.fsm.code) := by
  unfold step advance
  split
  · rw [if_pos hr]
  · next inp rest h =>
    refine if_pos ⟨hr, ?_⟩
    cases inp with
    | reset k => exact absurd h (hi k rest)
    | _ => rfl

theorem react_start {s : State} (h : s.fsm = .idle) (c : Byte) (sp : Bool) :
    react (.start c sp) s = exec (decodeCmd c) (s.present sp) := if_pos h

theorem react_start_ignored {s : State} (h : s.fsm ≠ .idle) (c : Byte) (sp : Bool) :
    react (.start c sp) s = .next (s.present sp) := if_neg h

theorem react_tx_sendCmd {s : State} (h : s.fsm = .sendCmd) (a : TxAnswer) :
    react (.tx a) s = commandByteAnswer a s := if_pos h

theorem react_tx_wrSend {s : State} (h : s.fsm = .wrSend) (a : TxAnswer) :
    react (.tx a) s = .next (sendAnswer a s) := by
  simp [react, h]

theorem react_rx_rdRecv {s : State} (h : s.fsm = .rdRecv) (a : RxAnswer) : react (.rx a) s = frameAnswer a s := if_pos h

theorem react_rx_wrHdr {s : State} (h : s.fsm = .wrHdr) (a : RxAnswer) : react (.rx a) s = headerAnswer a s := by
  simp [react, h]

theorem react_sink {s : State} (h : s.fsm = .rdStore) (a : SinkAnswer) :
    react (.sink a) s = .next (storeAnswer a s) := if_pos h

theorem react_src {s : State} (h : s.fsm = .wrFetch) (a : SrcAnswer) :
    react (.src a) s = .next (fetchAnswer a s) := if_pos h

/-- A state in a named phase is in no reserved one. -/
theorem not_reserved {s : State} {p : Phase} (h : s.fsm = p) (hp : p.isReserved = false) : s.fsm.isReserved = false := by
  rw [h, hp]

theorem step_start {s : State} {c : Byte} {sp : Bool} {rest : List Input} (h : s.fsm = .idle)
    (hi : s.env.inputs = .start c sp :: rest) : step s = exec (decodeCmd c) ((s.withInputs rest).present sp) :=
  (step_input (not_reserved h rfl) hi).trans (react_start (s := s.withInputs rest) h c sp)

theorem step_tx_sendCmd {s : State} {a : TxAnswer} {rest : List Input} (h : s.fsm = .sendCmd)
    (hi : s.env.inputs = .tx a :: rest) : step s = commandByteAnswer a (s.withInputs rest) :=
  (step_input (not_reserved h rfl) hi).trans (react_tx_sendCmd (s := s.withInputs rest) h a)

theorem step_tx_wrSend {s : State} {a : TxAnswer} {rest : List Input} (h : s.fsm = .wrSend)
    (hi : s.env.inputs = .tx a :: rest) : step s = .next (sendAnswer a (s.withInputs rest)) :=
  (step_input (not_reserved h rfl) hi).trans (react_tx_wrSend (s := s.withInputs rest) h a)

theorem step_rx_rdRecv {s : State} {a : RxAnswer} {rest : List Input} (h : s.fsm = .rdRecv)
    (hi : s.env.inputs = .rx a :: rest) : step s = frameAnswer a (s.withInputs rest) :=
  (step_input (not_reserved h rfl) hi).trans (react_rx_rdRecv (s := s.withInputs rest) h a)

theorem step_rx_wrHdr {s : State} {a : RxAnswer} {rest : List Input} (h : s.fsm = .wrHdr)
    (hi : s.env.inputs = .rx a :: rest) : step s = headerAnswer a (s.withInputs rest) :=
  (step_input (not_reserved h rfl) hi).trans (react_rx_wrHdr (s := s.withInputs rest) h a)

theorem step_sink {s : State} {a : SinkAnswer} {rest : List Input} (h : s.fsm = .rdStore)
    (hi : s.env.inputs = .sink a :: rest) : step s = .next (storeAnswer a (s.withInputs rest)) :=
  (step_input (not_reserved h rfl) hi).trans (react_sink (s := s.withInputs rest) h a)

theorem step_src {s : State} {a : SrcAnswer} {rest : List Input} (h : s.fsm = .wrFetch)
    (hi : s.env.inputs = .src a :: rest) : step s = .next (fetchAnswer a (s.withInputs rest)) :=
  (step_input (not_reserved h rfl) hi).trans (react_src (s := s.withInputs rest) h a)

theorem execRead_idle {s : State} (h : s.fsm = .idle) : execRead s = .next (s.sendCommand 0x52#8) := if_pos h

theorem execUnlock_idle {s : State} (h : s.fsm = .idle) : execUnlock s = .next (s.sendCommand 0x55#8) := if_pos h

theorem execErase_idle {s : State} (h : s.fsm = .idle) :
    execErase s = .next ((s.latch 0x45#8).enterDone .notImplemented) := if_pos h

theorem execCmdIllegal_idle {s : State} (h : s.fsm = .idle) (b : Byte) :
    execCmdIllegal b s = .next (s.raise (.illegalCommand b)) := if_pos h

theorem execWrite_idle {s : State} (h : s.fsm = .idle)
    (hp : s.env.srcPresentIn = true ∨ s.cfg.missingInputAfterCmd = true) :
    execWrite s = .next (s.sendCommand 0x57#8) := by
  unfold execWrite
  rw [if_pos h, if_neg]
  rintro ⟨h1, h2⟩
  simp [h1, h2] at hp

theorem execWrite_missing {s : State} (h : s.fsm = .idle) (h1 : s.env.srcPresentIn = false)
    (h2 : s.cfg.missingInputAfterCmd = false) : execWrite s = .next (s.raise .missingInput) := by
  unfold execWrite
  rw [if_pos h, if_pos ⟨h1, h2⟩]

theorem execHdrServe_wrHdr {s : State} (h : s.fsm = .wrHdr) (a : Half) :
    execHdrServe a s = .next (State.issue { s with addr := a } (.memRead a s.cfg.bufferSize) .wrFetch) := if_pos h

theorem execHdrEnd_wrHdr {s : State} (h : s.fsm = .wrHdr) (a : Half) :
    execHdrEnd a s = .next (State.enterDone { s with addr := a } .ok) := if_pos h

theorem execDigInvalid_permissive {s : State} (h : s.fsm = .rdRecv) (hm : s.cfg.decodeMode = .permissive) (ch : Byte) :
    execDigInvalid ch s = .next (s.pushNibble 0x0#4) := by
  unfold execDigInvalid
  rw [if_pos h, hm]

theorem execDigInvalid_strict {s : State} (h : s.fsm = .rdRecv) (hm : s.cfg.decodeMode = .strict) (ch : Byte) :
    execDigInvalid ch s = .next (s.raise .badHexDigit) := by
  unfold execDigInvalid
  rw [if_pos h, hm]

theorem commandByteAnswer_written {a : TxAnswer} {s : State} (h : a.response [s.cmd] = .written 1) :
    commandByteAnswer a s = (s.deliver [s.cmd]).dispatchCommand := by
  unfold commandByteAnswer
  rw [if_pos h, TxAnswer.delivered_of_written_one h]

theorem commandByteAnswer_short {a : TxAnswer} {s : State} (h : a.response [s.cmd] ≠ .written 1) :
    commandByteAnswer a s = .next ((s.deliver (a.delivered [s.cmd])).raise (.shortWrite (a.response [s.cmd]))) := if_neg h

theorem dispatchCommand_read {s : State} (h : s.cmd = 0x52#8) : s.dispatchCommand = .next s.enterReadSession := if_pos h

theorem dispatchCommand_write {s : State} (h : s.cmd = 0x57#8)
    (hp : s.cfg.missingInputAfterCmd = false ∨ s.srcPresent = true) :
    s.dispatchCommand = .next s.enterWriteSession := by
  unfold State.dispatchCommand
  rw [if_neg (by rw [h]; decide), if_pos h, if_neg]
  rintro ⟨h1, h2⟩
  simp [h1, h2] at hp

theorem dispatchCommand_missing {s : State} (h : s.cmd = 0x57#8) (h1 : s.cfg.missingInputAfterCmd = true)
    (h2 : s.srcPresent = false) : s.dispatchCommand = .next (s.raise .missingInput) := by
  unfold State.dispatchCommand
  rw [if_neg (by rw [h]; decide), if_pos h, if_pos ⟨h1, h2⟩]

theorem dispatchCommand_unlock {s : State} (h : s.cmd = 0x55#8) : s.dispatchCommand = .next (s.enterDone .ok) := by
  unfold State.dispatchCommand
  rw [if_neg (by rw [h]; decide), if_neg (by rw [h]; decide), if_pos h]

theorem frameAnswer_odd {s : State} {n : Nat} (h : (s.rxGroup s.cfg.frameMax n).length % 2 = 1) :
    frameAnswer (.group n) s =
      .next ((s.takeRx s.cfg.frameMax n).raise (.oddFrameLength (s.rxGroup s.cfg.frameMax n).length)) :=
  if_neg (by simp [frameLenOk_iff, h])

theorem frameAnswer_even {s : State} {n : Nat} (h : (s.rxGroup s.cfg.frameMax n).length % 2 = 0) :
    frameAnswer (.group n) s = decodeAndStore (s.rxGroup s.cfg.frameMax n) (s.takeRx s.cfg.frameMax n) :=
  if_pos ((frameLenOk_iff _).2 h)

theorem decodeAndStore_strict {g : List Byte} {s : State} (hm : s.cfg.decodeMode = .strict)
    (hd : frameDigitsOk g = false) : decodeAndStore g s = .next (s.raise .badHexDigit) := if_pos ⟨hm, hd⟩

theorem decodeAndStore_admitted {g : List Byte} {s : State} (hs : s.fsm = .rdRecv)
    (hm : s.cfg.decodeMode = .permissive ∨ frameDigitsOk g = true) :
    decodeAndStore g s = .next (State.storeFrame { s with decoded := s.decoded ++ g.map decDigit } g) := by
  rw [decodeAndStore_eq g hs, if_neg]
  rintro ⟨h1, h2⟩
  simp [h1, h2] at hm

theorem headerAnswer_two {s : State} {n : Nat} {h0 h1 : Byte} (hg : s.rxGroup 2 n = [h0, h1]) :
    headerAnswer (.group n) s =
      exec (classifyHeader s.cfg (assembleHeader s.cfg.addrOrder h0 h1)) (s.takeRx 2 n) := by
  simp only [headerAnswer, hg, decodeAs]

theorem headerAnswer_short {s : State} {n : Nat} (hl : (s.rxGroup 2 n).length < 2) :
    headerAnswer (.group n) s = .next ((s.takeRx 2 n).raise (.shortHeader (s.rxGroup 2 n).length)) := by
  rcases hg : s.rxGroup 2 n with _ | ⟨h0, _ | ⟨h1, g⟩⟩
  · simp only [headerAnswer, hg, decodeAs]
  · simp only [headerAnswer, hg, decodeAs]
  · simp [hg] at hl

theorem storeAnswer_done {s : State} (h : s.cfg.chipSize ≤ s.nextOffset.toNat) :
    storeAnswer .ok s = State.enterDone { s.appendSink s.chunkBytes with offset := s.nextOffset } .ok := if_pos h

theorem storeAnswer_loop {s : State} (h : s.nextOffset.toNat < s.cfg.chipSize) :
    storeAnswer .ok s =
      State.issue { s.appendSink s.chunkBytes with offset := s.nextOffset } (.rxRecv s.cfg.frameMax) .rdRecv :=
  if_neg (not_le.2 h)

theorem sendAnswer_written {a : TxAnswer} {s : State} (h : a.response s.frameBytes = .written s.cfg.frameMax) :
    sendAnswer a s = State.issue (s.deliver (a.delivered s.frameBytes)) (.rxRecv 2) .wrHdr := if_pos h

theorem sendAnswer_short {a : TxAnswer} {s : State} (h : a.response s.frameBytes ≠ .written s.cfg.frameMax) :
    sendAnswer a s = (s.deliver (a.delivered s.frameBytes)).raise (.shortWrite (a.response s.frameBytes)) := if_neg h

theorem core_run_next {M : Host.Core} {k : Nat} {s t : M.State} (h : M.step s = .next t) :
    M.run (k + 1) s = M.run k t := by
  rw [Host.Core.run, h]

/-- A run of one step and then `k` more. -/
theorem run_next {s t : State} (k : Nat) (h : step s = .next t) :
    Sys2Proof.core.run (k + 1) s = Sys2Proof.core.run k t :=
  core_run_next (M := Sys2Proof.core) h

theorem run_zero (s : State) : Sys2Proof.core.run 0 s = .next s := rfl

end Sys2Proof.Machine
end

