-- ==== Sys2Proof/Tests/Slice0.lean ====
section
/-! SUPPORT. Tests of the model, and a witness for the hypotheses of every statement. Expected values are those of
spec/95_test_vectors.md (vector ids V-…, examples W…, program P5) and of the tables of spec/30_encoding.md. -/

namespace Sys2Proof.Tests

open Sys2Proof.Machine

/-! ### Well-formedness: each check refuses an ill-formed term (R89, R87, R86) -/

theorem test_wf_cmd_illegal_refuses_a_command :
    [0x52#8, 0x57#8, 0x45#8, 0x55#8].all (fun b => !(Instr.cmdIllegal b).wf Params.reference) = true := by decide

theorem test_wf_hdr_serve_refuses_chip_size :
    (Instr.hdrServe 0x8000#16).wf Params.reference = false ∧ (Instr.hdrServe 0x7FFF#16).wf Params.reference = true := by
  decide

theorem test_wf_hdr_end_refuses_a_chip_address :
    (Instr.hdrEnd 0x7FFF#16).wf Params.reference = false ∧ (Instr.hdrEnd 0x8000#16).wf Params.reference = true := by
  decide

theorem test_wf_dig_invalid_refuses_a_digit :
    [0x30#8, 0x39#8, 0x41#8, 0x46#8].all (fun c => !(Instr.digInvalid c).wf Params.reference) = true ∧
    [0x2F#8, 0x3A#8, 0x40#8, 0x47#8].all (fun c => (Instr.digInvalid c).wf Params.reference) = true := by decide

/-! ### Decoding: every constructor, from words written out bit by bit -/

/-- R81: `'R'` 0101 0010, `'W'` 0101 0111, `'E'` 0100 0101, `'U'` 0101 0101; `'r'` is none of them (V-DP9). -/
theorem test_decode_cmd8 :
    decodeCmd 0b01010010#8 = .read ∧ decodeCmd 0b01010111#8 = .write ∧ decodeCmd 0b01000101#8 = .erase ∧
    decodeCmd 0b01010101#8 = .unlock ∧ decodeCmd 0b01110010#8 = .cmdIllegal 0x72#8 := by decide

/-- R87, R56: 64 is sent 0x40 0x00 and 32768 is sent 0x00 0x80 under LE; V-WR5 and V-WR6 under BE. -/
theorem test_decode_hdr16 :
    classifyHeader Params.reference (assembleHeader .le 0b01000000#8 0b00000000#8) = .hdrServe 64#16 ∧
    classifyHeader Params.reference (assembleHeader .le 0b00000000#8 0b10000000#8) = .hdrEnd 32768#16 ∧
    classifyHeader Params.reference (assembleHeader .be 0b01000000#8 0b00000000#8) = .hdrServe 16384#16 ∧
    classifyHeader Params.reference (assembleHeader .be 0b00000000#8 0b10000000#8) = .hdrServe 128#16 := by decide

/-- R84, R86: the sixteen digits. -/
theorem test_decode_hex8 :
    [0b00110000#8, 0b00110001#8, 0b00110010#8, 0b00110011#8, 0b00110100#8, 0b00110101#8, 0b00110110#8, 0b00110111#8,
      0b00111000#8, 0b00111001#8, 0b01000001#8, 0b01000010#8, 0b01000011#8, 0b01000100#8, 0b01000101#8,
      0b01000110#8].map decodeDigit =
    [.dig0, .dig1, .dig2, .dig3, .dig4, .dig5, .dig6, .dig7, .dig8, .dig9, .digA, .digB, .digC, .digD, .digE,
      .digF] := by decide

/-- R86: lower case, the neighbours of the digit ranges, space and the high half are no digits. -/
theorem test_decode_hex8_invalid :
    [0x61#8, 0x66#8, 0x2F#8, 0x3A#8, 0x40#8, 0x47#8, 0x20#8, 0x00#8, 0xFF#8, 0xB0#8].all
      (fun c => decide (decodeDigit c = .digInvalid c)) = true := by decide

/-- R89, R90: a header of one byte, and a frame item of two, are refused by name. -/
theorem test_decode_refuses_wrong_length :
    decodeAs Params.reference .hdr16 [0x40#8] = .error (.wrongLength .hdr16 1) ∧
    decodeAs Params.reference .hex8 [0x30#8, 0x31#8] = .error (.wrongLength .hex8 2) := ⟨rfl, rfl⟩

/-- The exact rows of the table and both header rows, as table words; 0x45 is read on the command port (log 14). -/
theorem test_decode_table_words :
    [(8, 0x52), (8, 0x57), (8, 0x45), (8, 0x55), (16, 0x0000), (16, 0x8000), (8, 0x30), (8, 0x39), (8, 0x41),
      (8, 0x46), (8, 0x00), (12, 0x30)].map (fun p => decodeTableWord p.1 p.2) =
    [some .read, some .write, some .erase, some .unlock, some (.hdrServe 0#16), some (.hdrEnd 0x8000#16), some .dig0,
      some .dig9, some .digA, some .digF, some (.cmdIllegal 0#8), none] := by decide

/-! ### The codec -/

/-- W1, W2, and the `enc_nib` and `enc_byte` tables. -/
theorem test_codec_encode :
    encodeChunk [0x00#8, 0xFF#8, 0x1A#8] = [0x30#8, 0x30#8, 0x46#8, 0x46#8, 0x31#8, 0x41#8] ∧
    [0x0#4, 0x9#4, 0xA#4, 0xF#4].map encNib = [0x30#8, 0x39#8, 0x41#8, 0x46#8] ∧
    encByte 0x7F#8 = [0x37#8, 0x46#8] ∧ encByte 0x80#8 = [0x38#8, 0x30#8] ∧ encByte 0xA5#8 = [0x41#8, 0x35#8] := by decide

/-- W2, W3, "G5", "1a2B", "DEADBEEF" and the odd-length "0". -/
theorem test_codec_decode :
    decodeFrame [0x30#8, 0x30#8, 0x46#8, 0x46#8, 0x31#8, 0x41#8] = some [0x00#8, 0xFF#8, 0x1A#8] ∧
    decodeFrame [0x30#8, 0x47#8] = some [0x00#8] ∧ decodeFrame [0x47#8, 0x35#8] = some [0x05#8] ∧
    decodeFrame [0x31#8, 0x61#8, 0x32#8, 0x42#8] = some [0x10#8, 0x2B#8] ∧
    decodeFrame [0x44#8, 0x45#8, 0x41#8, 0x44#8, 0x42#8, 0x45#8, 0x45#8, 0x46#8] =
      some [0xDE#8, 0xAD#8, 0xBE#8, 0xEF#8] ∧
    decodeFrame [0x30#8] = none := by decide

/-- `frame_digits_ok` and `frame_len_ok`. -/
theorem test_codec_checks :
    frameDigitsOk [] = true ∧ frameDigitsOk [0x30#8, 0x47#8] = false ∧ frameDigitsOk [0x66#8, 0x66#8] = false ∧
    [0, 1, 2, 127, 128].map frameLenOk = [true, false, true, false, true] := by decide

/-! ### Small states -/

/-- The parameters of program P5, with `Pad(0xFF)`. -/
def tiny : Params where
  chipSize := 4
  bufferSize := 2
  addrOrder := .le
  shortReadPolicy := .pad 0xFF#8
  decodeMode := .permissive
  missingInputAfterCmd := false

/-- The block after reset under `tiny`, with `ins` presented, device bytes `rx` and source bytes `src`. -/
def fresh (ins : List Input) (rx src : List Byte) : State :=
  State.resetWith tiny 0 { Env.empty with inputs := ins, rxStream := rx, source := Memory.ofBytes src }

/-- The block in RD_RECV. -/
def receiving (ins : List Input) (rx : List Byte) : State :=
  { fresh ins rx [] with fsm := .rdRecv, cmd := 0x52#8, trace := [.request (.rxRecv 4)] }

/-- The block in RD_STORE with the chunk 0B FF and `off` bytes stored before. -/
def storing (off : Half) (ins : List Input) : State :=
  { fresh ins [] [] with
    fsm := .rdStore
    cmd := 0x52#8
    offset := off
    frame := [0x30#8, 0x42#8, 0x46#8, 0x46#8]
    frameLen := 4#8
    chunk := [0x0B#8, 0xFF#8]
    chunkLen := 2#7
    trace := [.request (.memWrite [0x0B#8, 0xFF#8])] }

/-- The block in WR_HDR. -/
def heading (ins : List Input) (rx src : List Byte) : State :=
  { fresh ins rx src with fsm := .wrHdr, cmd := 0x57#8, trace := [.request (.rxRecv 2)] }

/-- The block in WR_FETCH at address `a`. -/
def fetching (a : Half) (ins : List Input) (src : List Byte) : State :=
  { fresh ins [] src with fsm := .wrFetch, cmd := 0x57#8, addr := a, trace := [.request (.memRead a 2)] }

/-- The block in WR_SEND with the chunk AA AA. -/
def sending (ins : List Input) : State :=
  { fresh ins [] [] with
    fsm := .wrSend
    cmd := 0x57#8
    frame := [0x41#8, 0x41#8, 0x41#8, 0x41#8]
    frameLen := 4#8
    chunk := [0xAA#8, 0xAA#8]
    chunkLen := 2#7
    trace := [.request (.txSend [0x41#8, 0x41#8, 0x41#8, 0x41#8])] }

/-- The block in SEND_CMD with command `c`. -/
def commanding (c : Byte) (ins : List Input) : State :=
  { fresh ins [] [] with fsm := .sendCmd, cmd := c, trace := [.request (.txSend [c])] }

/-- The block in DONE with OK. -/
def ended (ins : List Input) : State :=
  { fresh ins [] [] with fsm := .done, cmd := 0x55#8, status := .ok, closed := true, trace := [.close] }

/-- `s` under changed parameters. -/
def under (p : Params) (s : State) : State := { s with cfg := p }

/-- The next state, if there is one. -/
def after (o : Host.Outcome State Fault Refusal) : Option State :=
  match o with
  | .next s => some s
  | .fault _ => none
  | .refused _ => none

/-! ### One step each -/

/-- V-DP1, V-DP5, V-DP6, V-DP10, from the machine's own reset. -/
theorem test_start_commands :
    (after (step (State.reset.withFetchWord 8 0x52))).map (fun t => (t.fsm, t.outstanding)) =
      some (.sendCmd, some (.txSend [0x52#8])) ∧
    (after (step (State.reset.withFetchWord 8 0x57))).map (fun t => (t.fsm, t.outstanding)) =
      some (.sendCmd, some (.txSend [0x57#8])) ∧
    (after (step (State.reset.withFetchWord 8 0x45))).map (fun t => (t.fsm, t.status, t.trace)) =
      some (.done, .notImplemented, [.close]) ∧
    (after (step (State.reset.withFetchWord 8 0x55))).map (fun t => (t.fsm, t.outstanding)) =
      some (.sendCmd, some (.txSend [0x55#8])) ∧
    (after (step (State.reset.withFetchWord 8 0x00))).map (fun t => (t.status, t.trace)) =
      some (.illegalCommand, [.fault (.illegalCommand 0x00#8), .close]) := by decide

/-- V-DP3. -/
theorem test_write_without_source :
    (after (step (fresh [.start 0x57#8 false] [] []))).map (fun t => (t.fsm, t.status, t.cmd, t.trace)) =
      some (.fault, .missingInputError, 0x00#8, [.fault .missingInput, .close]) := by decide

/-- V-DP2, V-DP6, V-DP7, V-DP8. -/
theorem test_command_byte :
    (after (step (commanding 0x57#8 [.tx (.written 1)]))).map (fun t => (t.fsm, t.outstanding)) =
      some (.wrHdr, some (.rxRecv 2)) ∧
    (after (step (commanding 0x55#8 [.tx (.written 1)]))).map (fun t => (t.status, t.trace)) =
      some (.ok, [.request (.txSend [0x55#8]), .close]) ∧
    (after (step (commanding 0x55#8 [.tx (.written 0)]))).map (fun t => t.status) = some .shortWriteError ∧
    (after (step (commanding 0x52#8 [.tx (.err 0)]))).map (fun t => t.status) = some .shortWriteError := by decide

/-- V-DP4. -/
theorem test_missing_input_after_command :
    (after (step (under { tiny with missingInputAfterCmd := true } (commanding 0x57#8 [.tx (.written 1)])))).map
      (fun t => (t.status, t.env.txSent)) = some (.missingInputError, [0x57#8]) := by decide

/-- V-DP11, V-DP12. -/
theorem test_start_ignored :
    (after (step (receiving [.start 0x55#8 true] []))).map (fun t => (t.fsm, t.cmd)) = some (.rdRecv, 0x52#8) ∧
    (after (step (ended [.start 0x52#8 true]))).map (fun t => (t.fsm, t.cmd)) = some (.done, 0x55#8) := by decide

/-- P5's frames "0102", "0a" and "0BFF": the chunk that is stored. -/
theorem test_frame_is_decoded :
    (after (step (receiving [.rx (.group 4)] [0x30#8, 0x31#8, 0x30#8, 0x32#8]))).map (fun t => t.outstanding) =
      some (some (.memWrite [0x01#8, 0x02#8])) ∧
    (after (step (receiving [.rx (.group 2)] [0x30#8, 0x61#8]))).map (fun t => t.outstanding) =
      some (some (.memWrite [0x00#8])) ∧
    (after (step (receiving [.rx (.group 4)] [0x30#8, 0x42#8, 0x46#8, 0x46#8]))).map (fun t => t.outstanding) =
      some (some (.memWrite [0x0B#8, 0xFF#8])) := by decide

/-- V-RD1, V-RD2, V-RD5. -/
theorem test_frame_lengths :
    (after (step (receiving [.rx (.group 0)] [0x30#8]))).map (fun t => t.outstanding) = some (some (.memWrite [])) ∧
    (after (step (receiving [.rx (.group 1)] [0x30#8]))).map (fun t => (t.status, t.frameLen)) =
      some (.oddFrameLengthError, 0#8) ∧
    (after (step (receiving [.rx (.err 1)] [0x30#8]))).map (fun t => t.status) = some .rxError := by decide

/-- V-RD11, V-RD12. -/
theorem test_strict_frames :
    (after (step (under { tiny with decodeMode := .strict } (receiving [.rx (.group 2)] [0x30#8, 0x47#8])))).map
      (fun t => t.status) = some .badHexDigitError ∧
    (after (step (under { tiny with decodeMode := .strict }
      (receiving [.rx (.group 3)] [0x30#8, 0x47#8, 0x30#8])))).map (fun t => t.status) =
        some .oddFrameLengthError := by decide

/-- P5's last store (offset 3 to 5), a store that loops, and V-RD6's failed append. -/
theorem test_store :
    (after (step (storing 3#16 [.sink .ok]))).map (fun t => (t.fsm, t.totalO, t.env.sink)) =
      some (.done, 5#16, [(0, 0x0B#8), (1, 0xFF#8)]) ∧
    (after (step (storing 1#16 [.sink .ok]))).map (fun t => (t.fsm, t.totalO)) = some (.rdRecv, 3#16) ∧
    (after (step (storing 1#16 [.sink (.err 1)]))).map (fun t => (t.status, t.totalO, t.env.sink)) =
      some (.sinkError, 1#16, [(0, 0x0B#8)]) := by decide

/-- V-WR1 and V-WR3's kind at `tiny`'s CHIP_SIZE; V-WR7, V-WR8. -/
theorem test_headers :
    (after (step (heading [.rx (.group 2)] [0x04#8, 0x00#8] []))).map (fun t => (t.status, t.addr)) = some (.ok, 4#16) ∧
    (after (step (heading [.rx (.group 2)] [0x03#8, 0x00#8] []))).map (fun t => t.outstanding) =
      some (some (.memRead 3#16 2)) ∧
    (after (step (heading [.rx (.group 1)] [0x40#8] []))).map (fun t => t.status) = some .shortHeaderError ∧
    (after (step (heading [.rx (.group 2)] [] []))).map (fun t => t.status) = some .shortHeaderError := by decide

/-- V-WR10 to V-WR12 and W9, at `tiny`'s size: a read of one byte is padded or faults. -/
theorem test_fetch :
    (after (step (fetching 0#16 [.src .data] [0xAA#8, 0xAA#8]))).map (fun t => t.outstanding) =
      some (some (.txSend [0x41#8, 0x41#8, 0x41#8, 0x41#8])) ∧
    (after (step (fetching 1#16 [.src .data] [0xAA#8, 0xC0#8]))).map (fun t => t.outstanding) =
      some (some (.txSend [0x43#8, 0x30#8, 0x46#8, 0x46#8])) ∧
    (after (step (under { tiny with shortReadPolicy := .fail } (fetching 1#16 [.src .data] [0xAA#8, 0xC0#8])))).map
      (fun t => t.trace.drop 1) = some [.fault (.shortRead 1), .close] ∧
    (after (step (fetching 0#16 [.src .err] []))).map (fun t => t.status) = some .sourceError := by decide

/-- V-WR13, V-WR14. -/
theorem test_send_complete :
    (after (step (sending [.tx (.written 3)]))).map (fun t => (t.status, t.env.txSent)) =
      some (.shortWriteError, [0x41#8, 0x41#8, 0x41#8]) ∧
    (after (step (sending [.tx (.written 4)]))).map (fun t => (t.fsm, t.addr)) = some (.wrHdr, 0#16) := by decide

/-- V-FT5. -/
theorem test_reset_in_wr_send :
    (after (step (sending [.reset 2]))).map (fun t => (t.fsm, t.status, t.trace, t.env.txSent)) =
      some (.idle, .noResult, [], [0x41#8, 0x41#8]) := by decide

/-- R115: each digit's nibble, and the fallback's, in RD_RECV. -/
theorem test_digits :
    [Instr.dig0, .dig1, .dig2, .dig3, .dig4, .dig5, .dig6, .dig7, .dig8, .dig9, .digA, .digB, .digC, .digD, .digE,
      .digF, .digInvalid 0x63#8].map (fun i => (after (exec i (receiving [] []))).map (fun t => t.decoded)) =
    [0x0#4, 0x1#4, 0x2#4, 0x3#4, 0x4#4, 0x5#4, 0x6#4, 0x7#4, 0x8#4, 0x9#4, 0xA#4, 0xB#4, 0xC#4, 0xD#4, 0xE#4, 0xF#4,
      0x0#4].map (fun v => some [v]) := by decide

/-- A digit word and a header word, placed where the block reads next from reset. -/
theorem test_fetched_words :
    (after (step (State.reset.withFetchWord 8 0x41))).map (fun t => t.outstanding) = some (some (.memWrite [0xA0#8])) ∧
    (after (step (State.reset.withFetchWord 16 0x8000))).map (fun t => (t.fsm, t.addr)) = some (.done, 0x8000#16) ∧
    (after (step (State.reset.withFetchWord 16 0x0040))).map (fun t => t.outstanding) =
      some (some (.memRead 64#16 64)) := by decide

/-! ### Witnesses: states and operands that meet the hypotheses of each statement, clause by clause -/

theorem inv_storing : (storing 3#16 [.sink .ok]).Inv :=
  ⟨by decide, by decide, by decide, by decide, by decide, by decide⟩

theorem inv_sending : (sending [.tx (.written 4)]).Inv :=
  ⟨by decide, by decide, by decide, by decide, by decide, by decide⟩

/-- Well-formed operands at the boundaries of each class. -/
theorem witness_DecodeOfEncodeIsIdentity :
    (Instr.hdrServe 0x7FFF#16).wf Params.reference = true ∧ (Instr.hdrEnd 0x8000#16).wf Params.reference = true ∧
    (Instr.cmdIllegal 0x53#8).wf Params.reference = true ∧ (Instr.digInvalid 0x3A#8).wf Params.reference = true := by
  decide

theorem witness_EncodeOfDecodeIsIdentity :
    decodeAs Params.reference .cmd8 [0x53#8] = .ok (.cmdIllegal 0x53#8) ∧
    decodeAs Params.reference .hdr16 [0xFF#8, 0x7F#8] = .ok (.hdrServe 0x7FFF#16) ∧
    decodeAs Params.reference .hex8 [0x46#8] = .ok .digF := ⟨rfl, rfl, rfl⟩

theorem witness_CodecLaws :
    decodeFrame [0x31#8, 0x41#8] = some [0x1A#8] ∧ [0x31#8, 0x41#8][2 * 0]? = some 0x31#8 ∧
    [0x31#8, 0x41#8][2 * 0 + 1]? = some 0x41#8 ∧ [0x1A#8][0]? = some 0x1A#8 ∧ encNib 0xA#4 = encNib 0xA#4 := by decide

theorem witness_ReverseLaw : [0x31#8, 0x61#8].length % 2 = 0 ∧ frameDigitsOk [0x31#8, 0x61#8] = false ∧
    frameDigitsOk [0x31#8, 0x41#8] = true := by decide

/-- Each clause at its boundary characters. -/
theorem witness_CharacterYieldsItsDigitValue :
    (receiving [] []).fsm = .rdRecv ∧ (receiving [] []).cfg.decodeMode = .permissive ∧
    [0x30#8, 0x39#8, 0x41#8, 0x46#8].all (fun c => isDigit c) = true ∧
    [0x2F#8, 0x3A#8, 0x40#8, 0x47#8].all (fun c => decide (NotADigit c)) = true := by decide

/-- IDLE, with a source and without, under both places of the check: the commands' statements. -/
theorem witness_commands_in_idle :
    State.reset.fsm = .idle ∧
    (State.reset.present true).fsm = .idle ∧ (State.reset.present true).env.srcPresentIn = true ∧
    State.reset.env.srcPresentIn = false ∧ State.reset.cfg.missingInputAfterCmd = false ∧
    (under { tiny with missingInputAfterCmd := true } (fresh [] [] [])).fsm = .idle ∧
    (under { tiny with missingInputAfterCmd := true } (fresh [] [] [])).cfg.missingInputAfterCmd = true := by decide

theorem witness_CommandsIgnoredOutsideIdle :
    (ended [.start 0x52#8 true]).fsm ≠ .idle ∧ (ended [.start 0x52#8 true]).fsm.isReserved = false ∧
    (ended [.start 0x52#8 true]).env.inputs = .start 0x52#8 true :: [] ∧ Instr.read.format = .cmd8 := by decide

theorem witness_HeaderInstructionsComplete : (heading [] [] []).fsm = .wrHdr := by decide

theorem witness_digits_in_rd_recv :
    (receiving [] []).fsm = .rdRecv ∧ (receiving [] []).cfg.decodeMode = .permissive ∧
    (under { tiny with decodeMode := .strict } (receiving [] [])).fsm = .rdRecv ∧
    (under { tiny with decodeMode := .strict } (receiving [] [])).cfg.decodeMode = .strict := by decide

theorem witness_StepRunsStartedCommand :
    (fresh [.start 0x45#8 true] [] []).fsm = .idle ∧
    (fresh [.start 0x45#8 true] [] []).env.inputs = .start 0x45#8 true :: [] ∧
    decodeAs (fresh [.start 0x45#8 true] [] []).cfg .cmd8 [0x45#8] = .ok .erase := ⟨rfl, rfl, rfl⟩

theorem witness_StepRunsReceivedHeader :
    (heading [.rx (.group 2)] [0x03#8, 0x00#8, 0x99#8] []).fsm = .wrHdr ∧
    (heading [.rx (.group 2)] [0x03#8, 0x00#8, 0x99#8] []).env.inputs = .rx (.group 2) :: [] ∧
    (heading [.rx (.group 2)] [0x03#8, 0x00#8, 0x99#8] []).env.rxStream = 0x03#8 :: 0x00#8 :: [0x99#8] ∧
    decodeAs tiny .hdr16 [0x03#8, 0x00#8] = .ok (.hdrServe 3#16) := ⟨rfl, rfl, rfl, rfl⟩

/-- The frame "1a", in the state whose `decoded` its two characters make 1, 0. -/
theorem witness_StepRunsFrameCharacters :
    (receiving [.rx (.group 2)] [0x31#8, 0x61#8]).env.inputs = .rx (.group 2) :: [] ∧
    [0x31#8, 0x61#8] = (receiving [.rx (.group 2)] [0x31#8, 0x61#8]).env.rxStream.take (min 2 tiny.frameMax) ∧
    [0x31#8, 0x61#8].map (fun ch => decodeAs tiny .hex8 [ch]) = [.dig1, .digInvalid 0x61#8].map Except.ok ∧
    Runs [.dig1, .digInvalid 0x61#8] (receiving [] []) { receiving [] [] with decoded := [0x1#4, 0x0#4] } :=
  ⟨rfl, rfl, rfl, _, rfl, _, rfl, rfl⟩

/-- Each command byte's clause of R141; 0x53 lies in the last. -/
theorem witness_StartTransition :
    (fresh [.start 0x57#8 false] [] []).fsm = .idle ∧
    (fresh [.start 0x57#8 false] [] []).env.inputs = .start 0x57#8 false :: [] ∧
    tiny.missingInputAfterCmd = false ∧ NotACommand 0x53#8 := by decide

theorem witness_StartTransition_leaves_idle :
    (fresh [.start 0x55#8 true] [] []).fsm = .idle ∧ ∃ t, step (fresh [.start 0x55#8 true] [] []) = .next t ∧ t.fsm ≠ .idle :=
  ⟨rfl, _, rfl, by decide⟩

theorem witness_CommandByteTransition :
    (commanding 0x57#8 [.tx (.written 1)]).fsm = .sendCmd ∧
    (commanding 0x57#8 [.tx (.written 1)]).env.inputs = .tx (.written 1) :: [] ∧
    (TxAnswer.written 1).response [0x57#8] = .written 1 ∧ (TxAnswer.written 0).response [0x57#8] ≠ .written 1 ∧
    (TxAnswer.err 1).response [0x57#8] ≠ .written 1 ∧ (commanding 0x57#8 []).srcPresent = false := by decide

theorem witness_UnlockSendsOneByteAndEnds :
    (fresh [.start 0x55#8 true, .tx (.written 1)] [] []).fsm = .idle ∧
    (fresh [.start 0x55#8 true, .tx (.written 1)] [] []).env.inputs = .start 0x55#8 true :: .tx (.written 1) :: [] ∧
    (TxAnswer.written 1).response [0x55#8] = .written 1 ∧ (TxAnswer.written 0).response [0x55#8] ≠ .written 1 := by decide

/-- A receive error; an odd group; a Strict frame with no digit; an admitted frame; the empty frame. -/
theorem witness_ReceiveTransition :
    (receiving [.rx (.err 1)] []).fsm = .rdRecv ∧ (receiving [.rx (.err 1)] []).decoded = [] ∧
    (receiving [.rx (.err 1)] []).env.inputs = .rx (.err 1) :: [] ∧
    ([0x30#8].take (min 3 tiny.frameMax)).length % 2 = 1 ∧ ([0x30#8, 0x47#8].take (min 2 tiny.frameMax)).length % 2 = 0 ∧
    frameDigitsOk [0x30#8, 0x47#8] = false ∧ (([] : List Byte).take (min 0 tiny.frameMax)).length % 2 = 0 ∧
    frameDigitsOk [] = true := by decide

/-- `n_off` at CHIP_SIZE, one below it, and a failed append. -/
theorem witness_StoreCompleteTransition :
    (storing 2#16 [.sink .ok]).fsm = .rdStore ∧ (storing 2#16 [.sink .ok]).env.inputs = .sink .ok :: [] ∧
    Memory.wf (storing 2#16 [.sink .ok]).env.sink ∧
    tiny.chipSize ≤ (2#16 + (storing 2#16 []).chunkLen.setWidth 16).toNat ∧
    (1#16 + (storing 1#16 []).chunkLen.setWidth 16).toNat < tiny.chipSize ∧
    (storing 2#16 [.sink (.err 1)]).env.inputs = .sink (.err 1) :: [] := by decide

theorem witness_OvershootIsStoredWhole :
    (storing 3#16 [.sink .ok]).Inv ∧ (storing 3#16 [.sink .ok]).fsm = .rdStore ∧
    (storing 3#16 [.sink .ok]).env.inputs = .sink .ok :: [] ∧
    tiny.chipSize < (storing 3#16 []).offset.toNat + (storing 3#16 []).chunkLen.toNat :=
  ⟨inv_storing, by decide, by decide, by decide⟩

/-- A receive error; one byte of two; the values CHIP_SIZE - 1 and CHIP_SIZE. -/
theorem witness_HeaderTransition :
    (heading [.rx (.err 1)] [] []).fsm = .wrHdr ∧ (heading [.rx (.err 1)] [] []).env.inputs = .rx (.err 1) :: [] ∧
    min 1 (heading [.rx (.group 1)] [0x40#8] []).env.rxStream.length < 2 ∧
    (heading [.rx (.group 2)] [0x03#8, 0x00#8] []).env.rxStream = 0x03#8 :: 0x00#8 :: [] ∧
    (3#16).toNat < tiny.chipSize ∧ tiny.chipSize ≤ (4#16).toNat := by decide

/-- A source error; a read one byte short, under `Fail` and under `Pad`; a whole read. -/
theorem witness_FetchTransition :
    (fetching 1#16 [.src .err] [0x01#8, 0x02#8]).fsm = .wrFetch ∧
    (fetching 1#16 [.src .err] [0x01#8, 0x02#8]).env.inputs = .src .err :: [] ∧
    (under { tiny with shortReadPolicy := .fail } (fetching 1#16 [.src .data] [0x01#8, 0x02#8])).cfg.shortReadPolicy =
      .fail ∧
    (Memory.readRun (fetching 1#16 [] [0x01#8, 0x02#8]).env.source 1 2).length < 2 ∧ tiny.shortReadPolicy ≠ .fail ∧
    (Memory.readRun (fetching 0#16 [] [0x01#8, 0x02#8]).env.source 0 2).length = 2 := by decide

theorem witness_SentFrameIsWholeAndDecodes :
    (fetching 1#16 [.src .data] [0x01#8, 0x02#8]).fsm = .wrFetch ∧
    ∃ t, step (fetching 1#16 [.src .data] [0x01#8, 0x02#8]) = .next t ∧ t.fsm = .wrSend := ⟨rfl, _, rfl, rfl⟩

theorem witness_SendCompleteTransition :
    (sending [.tx (.written 4)]).fsm = .wrSend ∧ (sending [.tx (.written 4)]).env.inputs = .tx (.written 4) :: [] ∧
    (TxAnswer.written 4).response (sending []).frameBytes = .written 4 ∧
    (TxAnswer.written 3).response (sending []).frameBytes ≠ .written 4 := by decide

theorem witness_FaultEntryIsPrecise :
    ∃ t, step (receiving [.rx (.err 1)] []) = .next t ∧ (receiving [.rx (.err 1)] []).fsm ≠ .fault ∧ t.fsm = .fault :=
  ⟨_, rfl, by decide, rfl⟩

theorem witness_NormalEndClosesOnce :
    ∃ t, step (storing 2#16 [.sink .ok]) = .next t ∧ (storing 2#16 [.sink .ok]).fsm ≠ .done ∧ t.fsm = .done :=
  ⟨_, rfl, by decide, rfl⟩

/-- DONE with an answer presented; a reserved code, 0x7 and 0xD. -/
theorem witness_TerminalStatesAbsorb :
    (ended [.rx (.err 1)]).fsm = .done ∧ (ended [.rx (.err 1)]).nextIsReset = false ∧
    (ended [.rx (.err 1)]).fsm.isReserved = false ∧ (∃ t, step (ended [.rx (.err 1)]) = .next t) ∧
    (Phase.reserved 0).isReserved = true ∧ (Phase.reserved 0).code = 0x7#4 ∧ (Phase.reserved 6).code = 0xD#4 ∧
    State.nextIsReset { fresh [] [] [] with fsm := .reserved 0 } = false :=
  ⟨rfl, rfl, rfl, ⟨_, rfl⟩, rfl, rfl, rfl, rfl⟩

theorem witness_ResetActionFromAnyState :
    (storing 3#16 [.reset 1]).env.inputs = .reset 1 :: [] ∧ (sending [.reset 2]).env.inputs = .reset 2 :: [] ∧
    (sending [.reset 2]).fsm ≠ .rdStore := by decide

theorem witness_UnansweredRequestWaitsForever :
    (sending []).fsm.isReserved = false ∧ (sending []).env.inputs = [] := by decide

theorem witness_AnswersToNoRequestAreDropped :
    (ended [.tx (.written 1)]).fsm.isReserved = false ∧ (ended [.tx (.written 1)]).env.inputs = .tx (.written 1) :: [] ∧
    (ended []).fsm ≠ .sendCmd ∧ (ended []).fsm ≠ .wrSend ∧ (ended []).fsm ≠ .rdRecv ∧ (ended []).fsm ≠ .wrHdr ∧
    (ended []).fsm ≠ .rdStore ∧ (ended []).fsm ≠ .wrFetch := by decide

theorem witness_ExitCodeOfAnEndedRun : (ended []).ControlOk ∧ (ended []).ended = true := by decide

/-- A state that meets the invariant, a step of it and its successor: every statement about an invariant and a step. -/
theorem witness_invariant_and_step :
    (storing 3#16 [.sink .ok]).Inv ∧ (storing 3#16 [.sink .ok]).nextIsReset = false ∧
    ∃ t, step (storing 3#16 [.sink .ok]) = .next t := ⟨inv_storing, rfl, _, rfl⟩

theorem witness_invariant_and_step_of_a_send :
    (sending [.tx (.written 4)]).Inv ∧ (sending [.tx (.written 4)]).nextIsReset = false ∧
    (after (step (sending [.tx (.written 4)]))).map (fun t => t.env.txSent.length) = some 4 :=
  ⟨inv_sending, by decide, by decide⟩

/-- In RD_RECV, two states that differ in the device's bytes, the buffers, the sink and the source. -/
theorem alike_receiving :
    SameControl (receiving [.rx (.group 2), .sink .ok] [0x30#8, 0x31#8])
      { receiving [.rx (.group 2), .sink .ok] [0x7A#8, 0x00#8] with
        frame := [1#8, 2#8, 3#8, 4#8]
        chunk := [5#8, 6#8]
        draws := 7
        env := { (receiving [.rx (.group 2), .sink .ok] [0x7A#8, 0x00#8]).env with
          sink := [(0, 0x55#8)], source := [(0, 0x01#8)] } } :=
  ⟨rfl, rfl, rfl, rfl, rfl, rfl, rfl, rfl, rfl, rfl, rfl, rfl, rfl, rfl, rfl, rfl, rfl, fun h => by cases h⟩

/-- In WR_HDR, two states whose header bytes agree and whose later device bytes do not. -/
theorem alike_heading :
    SameControl (heading [.rx (.group 2)] [0x03#8, 0x00#8, 0x11#8] [0x01#8])
      (heading [.rx (.group 2)] [0x03#8, 0x00#8, 0x22#8] [0x02#8, 0x03#8]) :=
  ⟨rfl, rfl, rfl, rfl, rfl, rfl, rfl, rfl, rfl, rfl, rfl, rfl, rfl, rfl, rfl, rfl, rfl, fun h => by cases h⟩

/-- Beside `alike_receiving` and `alike_heading`: the mode, the header premise, and a reserved code. -/
theorem witness_FrameContentsNeverReachControl :
    (receiving [] []).cfg.decodeMode = .permissive ∧ (receiving [] []).fsm ≠ .wrHdr ∧
    (heading [] [] []).cfg.decodeMode = .permissive ∧
    (heading [] [0x03#8, 0x00#8, 0x22#8] []).env.rxStream.take 2 =
      (heading [] [0x03#8, 0x00#8, 0x11#8] []).env.rxStream.take 2 ∧
    State.cfg { fresh [] [] [] with fsm := .reserved 0 } = tiny := by decide

/-- Beside `alike_receiving`, a run of two steps: a frame and its store, with no reset. -/
theorem witness_ReadSessionsStayAlikeInControl :
    (receiving [.rx (.group 2), .sink .ok] [0x30#8, 0x31#8]).fsm = .rdRecv ∧
    ((receiving [.rx (.group 2), .sink .ok] [0x30#8, 0x31#8]).env.inputs.take 2).all (fun i => !i.isReset) = true := by
  decide

/-- A Read session that has the whole image before it: two groups of four characters for `tiny`'s four bytes. -/
def wholeRead : State :=
  receiving [.rx (.group 4), .sink .ok, .rx (.group 4), .sink .ok]
    [0x30#8, 0x31#8, 0x30#8, 0x32#8, 0x30#8, 0x61#8, 0x46#8, 0x46#8]

/-- Its groups. -/
def wholeReadGroups : List (List Byte) := [[0x30#8, 0x31#8, 0x30#8, 0x32#8], [0x30#8, 0x61#8, 0x46#8, 0x46#8]]

theorem inv_wholeRead : wholeRead.Inv :=
  ⟨by decide, by decide, by decide, by decide, by decide, by decide⟩

theorem witness_ReadSessionStoresTheWholeImage :
    wholeRead.fsm = .rdRecv ∧ wholeRead.offset = 0#16 ∧ wholeRead.cfg.decodeMode = .permissive ∧
    (∀ g ∈ wholeReadGroups, g.length % 2 = 0 ∧ g.length ≤ wholeRead.cfg.frameMax) ∧
    wholeReadGroups.flatten.length = 2 * wholeRead.cfg.chipSize ∧
    wholeRead.env.rxStream = wholeReadGroups.flatten ++ [] ∧
    wholeRead.env.inputs = wholeReadGroups.flatMap (fun g => [.rx (.group g.length), .sink .ok]) ++ [] := by decide

/-- A Write session with one header below CHIP_SIZE and one at it before it. -/
def wholeWrite : State :=
  heading [.rx (.group 2), .src .data, .tx (.written 4), .rx (.group 2)] [0x03#8, 0x00#8, 0x04#8, 0x00#8] [0x01#8]

theorem inv_wholeWrite : wholeWrite.Inv :=
  ⟨by decide, by decide, by decide, by decide, by decide, by decide⟩

theorem witness_WriteSessionServesEveryHeader :
    wholeWrite.fsm = .wrHdr ∧ wholeWrite.cfg.shortReadPolicy ≠ .fail ∧
    (∀ a ∈ [3#16], a.toNat < wholeWrite.cfg.chipSize) ∧ wholeWrite.cfg.chipSize ≤ (4#16).toNat ∧
    wholeWrite.env.rxStream =
      [3#16].flatMap (splitHeader wholeWrite.cfg.addrOrder) ++ splitHeader wholeWrite.cfg.addrOrder 4#16 ++ [] ∧
    wholeWrite.env.inputs =
      [3#16].flatMap (fun _ => [.rx (.group 2), .src .data, .tx (.written wholeWrite.cfg.frameMax)]) ++
        .rx (.group 2) :: [] :=
  ⟨by decide, by decide, List.forall_mem_singleton.2 (by decide), by decide, by decide, by decide⟩

end Sys2Proof.Tests
end

/-! PROOFS. The invariant of the block: it holds after reset, every step keeps it, and a transition adds to the events
what R9 and R61 say. The idea: in the middle of a transition the block is `Live`, whatever phase it comes from, and a
transition ends in one of the four ways of `EndsIn`; so the invariant is proved once per way, not per transition. -/

namespace Sys2Proof.Machine

/-! ### The registers of a run that has not ended -/

/-- What holds of the state in the middle of every transition of a run that has not ended: the clauses of `State.Inv`
that no phase conditions. -/
structure State.Live (u : State) : Prop where
  cfg_wf : u.cfg.wf
  status : u.status = .noResult
  closed : u.closed = false
  frame_length : u.frame.length = u.cfg.frameMax
  chunk_length : u.chunk.length = u.cfg.bufferSize
  frameLen_le : u.frameLen.toNat ≤ u.cfg.frameMax
  frameLen_even : u.frameLen.toNat % 2 = 0
  chunkLen_le : u.chunkLen.toNat ≤ u.cfg.bufferSize
  decoded : u.decoded = []
  offset_le : u.offset.toNat ≤ u.cfg.chipSize + u.cfg.bufferSize - 1
  no_close : u.trace.count .close = 0
  no_fault : u.trace.filterMap Event.fault? = []
  stores : u.StoresOk

theorem ended_eq_false_of_fsm {s : State} {p : Phase} (h : s.fsm = p) (hp : p ≠ .done ∧ p ≠ .fault) :
    s.ended = false := by
  simp [State.ended, State.isDone, State.isFault, h, hp]

/-- The invariant makes a state of a run that has not ended `Live`. -/
theorem State.Inv.live {s : State} {p : Phase} (hs : s.Inv) (h : s.fsm = p) (hp : p ≠ .done ∧ p ≠ .fault) :
    s.Live := by
  have he := ended_eq_false_of_fsm h hp
  obtain ⟨hcfg, ⟨_, hclosed, hstatus, _⟩, ⟨hframe, hchunk, hfl, heven, hcl, hdec, _⟩, ⟨hoff, _⟩,
    ⟨_, _, hcount, _, _, hfault⟩, hstores⟩ := hs
  have hc : s.closed = false := hclosed.trans he
  exact {
    cfg_wf := hcfg, status := hstatus.2 he, closed := hc, frame_length := hframe, chunk_length := hchunk
    frameLen_le := hfl, frameLen_even := heven, chunkLen_le := hcl, decoded := hdec, offset_le := hoff
    no_close := by simpa [hc] using hcount
    no_fault := hfault (h ▸ hp.2)
    stores := hstores }

/-- The Read session runs under the command READ. -/
theorem State.Inv.read_command {s : State} (hs : s.Inv) (h : s.fsm = .rdRecv ∨ s.fsm = .rdStore) :
    s.cmd = 0x52#8 := by
  obtain ⟨-, ⟨-, -, -, -, -, -, hread, -⟩, -⟩ := hs
  exact hread h

/-- The Write session runs under the command WRITE. -/
theorem State.Inv.write_command {s : State} (hs : s.Inv) (h : s.fsm = .wrHdr ∨ s.fsm = .wrFetch ∨ s.fsm = .wrSend) :
    s.cmd = 0x57#8 := by
  obtain ⟨-, ⟨-, -, -, -, -, -, -, hwrite⟩, -⟩ := hs
  exact hwrite h

/-- While the Read session runs, the byte count is below CHIP_SIZE. -/
theorem State.Inv.offset_lt {s : State} (hs : s.Inv) (h : s.fsm = .rdRecv ∨ s.fsm = .rdStore) :
    s.offset.toNat < s.cfg.chipSize := by
  obtain ⟨-, -, -, ⟨-, hlt⟩, -⟩ := hs
  exact hlt h

/-! ### The register writes of a transition keep the block live -/

section
variable {u : State} (hu : u.Live)
include hu

theorem State.Live.deliver (bs : List Byte) : (u.deliver bs).Live := { hu with }

theorem State.Live.takeRx (max n : Nat) : (u.takeRx max n).Live := { hu with }

theorem State.Live.present (sp : Bool) : (u.present sp).Live := { hu with }

theorem State.Live.latch (b : Byte) : (u.latch b).Live := { hu with }

theorem State.Live.appendSink (bs : List Byte) : (u.appendSink bs).Live :=
  { hu with stores := ⟨Memory.wf_append bs hu.stores.1, hu.stores.2⟩ }

theorem State.Live.setAddr (a : Half) : State.Live { u with addr := a } := { hu with }

theorem State.Live.setOffset {o : Half} (ho : o.toNat ≤ u.cfg.chipSize + u.cfg.bufferSize - 1) :
    State.Live { u with offset := o } := { hu with offset_le := ho }

/-- A store's count does not wrap when the session began it below CHIP_SIZE (R24). -/
theorem State.Live.nextOffset_toNat (ho : u.offset.toNat < u.cfg.chipSize) :
    u.nextOffset.toNat = u.offset.toNat + u.chunkLen.toNat := by
  obtain ⟨_, _, _, hsum, _⟩ := hu.cfg_wf
  have hcl := hu.chunkLen_le
  have hw : (u.chunkLen.setWidth 16).toNat = u.chunkLen.toNat := BitVec.toNat_setWidth_of_le (by decide)
  rw [State.nextOffset, BitVec.toNat_add, hw]
  exact Nat.mod_eq_of_lt (by omega)

theorem State.Live.nextOffset_le (ho : u.offset.toNat < u.cfg.chipSize) :
    u.nextOffset.toNat ≤ u.cfg.chipSize + u.cfg.bufferSize - 1 := by
  have hcl := hu.chunkLen_le
  rw [hu.nextOffset_toNat ho]
  omega

end

/-- The register writes of `State.storeFrame` for the frame `g`, without its request and with no digit left over. -/
def State.holdFrame (u : State) (g : List Byte) : State :=
  { u with
    frame := overwrite u.frame g
    frameLen := BitVec.ofNat 8 g.length
    chunk := overwrite u.chunk (packNibbles (g.map decDigit))
    chunkLen := BitVec.ofNat 7 (g.length / 2) }

/-- The register writes of `State.sendChunk` for the chunk `c`, without its request. -/
def State.holdChunk (u : State) (c : List Byte) (n : Nat) : State :=
  { u with
    chunk := c
    chunkLen := BitVec.ofNat 7 u.cfg.bufferSize
    frame := encodeChunk c
    frameLen := BitVec.ofNat 8 u.cfg.frameMax
    draws := u.draws + n }

theorem sendChunk_eq_issue (u : State) (c : List Byte) (n : Nat) :
    u.sendChunk c n = (u.holdChunk c n).issue (.txSend (u.holdChunk c n).frameBytes) .wrSend := rfl

section
variable {u : State} {g : List Byte} (hu : u.Live) (hg : g.length ≤ u.cfg.frameMax)
include hu hg

/-- A frame of FRAME_MAX characters or fewer fits `frame_len`, and its bytes fit `chunk_len` (R6, log 9) and `chunk`. -/
theorem State.Live.frame_fits :
    g.length < 2 ^ 8 ∧ g.length / 2 < 2 ^ 7 ∧ g.length / 2 ≤ u.cfg.bufferSize := by
  obtain ⟨_, _, _, _, hbuf⟩ := hu.cfg_wf
  rw [Params.frameMax] at hg
  omega

theorem State.Live.holdFrame_frameLen : (u.holdFrame g).frameLen.toNat = g.length :=
  Nat.mod_eq_of_lt (hu.frame_fits hg).1

theorem State.Live.holdFrame_chunkLen : (u.holdFrame g).chunkLen.toNat = g.length / 2 :=
  Nat.mod_eq_of_lt (hu.frame_fits hg).2.1

theorem State.Live.holdFrame_chunkBytes : (u.holdFrame g).chunkBytes = packNibbles (g.map decDigit) := by
  have hl : (packNibbles (g.map decDigit)).length = g.length / 2 := by simp [length_packNibbles]
  rw [State.chunkBytes, hu.holdFrame_chunkLen hg, ← hl]
  exact take_overwrite _ _

theorem State.Live.holdFrame (heven : g.length % 2 = 0) : (u.holdFrame g).Live := by
  obtain ⟨-, -, hhalf⟩ := hu.frame_fits hg
  exact { hu with
    frame_length := by simp [State.holdFrame, hu.frame_length, hg]
    chunk_length := by simp [State.holdFrame, length_packNibbles, hu.chunk_length, hhalf]
    frameLen_le := (hu.holdFrame_frameLen hg).trans_le hg
    frameLen_even := by rw [hu.holdFrame_frameLen hg, heven]
    chunkLen_le := (hu.holdFrame_chunkLen hg).trans_le hhalf }

/-- The frame held decodes to the chunk held (R163). -/
theorem State.Live.decode_holdFrame (heven : g.length % 2 = 0) :
    decodeFrame ((u.holdFrame g).frame.take (u.holdFrame g).frameLen.toNat) = some (u.holdFrame g).chunkBytes := by
  rw [hu.holdFrame_frameLen hg, hu.holdFrame_chunkBytes hg, ← decodeFrame_eq_pack g heven]
  exact congrArg decodeFrame (take_overwrite u.frame g)

/-- Storing a decoded frame holds it and asks the sink for the chunk held. -/
theorem State.Live.storeFrame_eq_issue :
    State.storeFrame { u with decoded := u.decoded ++ g.map decDigit } g =
      (u.holdFrame g).issue (.memWrite (u.holdFrame g).chunkBytes) .rdStore := by
  rw [hu.holdFrame_chunkBytes hg]
  simp [State.storeFrame, State.holdFrame, hu.decoded]

end

section
variable {u : State} {c : List Byte} (hu : u.Live)
include hu

theorem State.Live.holdChunk_frameLen (n : Nat) : (u.holdChunk c n).frameLen.toNat = u.cfg.frameMax := by
  obtain ⟨_, _, _, _, hbuf⟩ := hu.cfg_wf
  exact Nat.mod_eq_of_lt (by rw [Params.frameMax]; omega)

theorem State.Live.holdChunk_chunkLen (n : Nat) : (u.holdChunk c n).chunkLen.toNat = u.cfg.bufferSize := by
  obtain ⟨_, _, _, _, hbuf⟩ := hu.cfg_wf
  exact Nat.mod_eq_of_lt (by omega)

theorem State.Live.holdChunk (hc : c.length = u.cfg.bufferSize) (n : Nat) : (u.holdChunk c n).Live :=
  { hu with
    frame_length := by simp [State.holdChunk, hc, Params.frameMax]
    chunk_length := hc
    frameLen_le := (hu.holdChunk_frameLen n).le
    frameLen_even := by rw [hu.holdChunk_frameLen n, Params.frameMax, Nat.mul_mod_right]
    chunkLen_le := (hu.holdChunk_chunkLen n).le }

end

/-! ### Issuing a request -/

/-- Which request the block may issue, and the phase that waits on it (R21): the command it belongs to, and what the
registers hold by then (R24, R26, R27). -/
inductive State.MayIssue (u : State) : Request → Phase → Prop where
  | sendCmd (hc : u.cmd = 0x52#8 ∨ u.cmd = 0x57#8 ∨ u.cmd = 0x55#8) : MayIssue u (.txSend [u.cmd]) .sendCmd
  | rdRecv (hc : u.cmd = 0x52#8) (ho : u.offset.toNat < u.cfg.chipSize) : MayIssue u (.rxRecv u.cfg.frameMax) .rdRecv
  | rdStore (hc : u.cmd = 0x52#8) (ho : u.offset.toNat < u.cfg.chipSize)
      (hd : decodeFrame (u.frame.take u.frameLen.toNat) = some u.chunkBytes) :
      MayIssue u (.memWrite u.chunkBytes) .rdStore
  | wrHdr (hc : u.cmd = 0x57#8) : MayIssue u (.rxRecv 2) .wrHdr
  | wrFetch (hc : u.cmd = 0x57#8) : MayIssue u (.memRead u.addr u.cfg.bufferSize) .wrFetch
  | wrSend (hc : u.cmd = 0x57#8) (hf : u.frame = encodeChunk u.chunk) (hl : u.frameLen.toNat = u.cfg.frameMax) :
      MayIssue u (.txSend u.frameBytes) .wrSend

section
variable {u : State} {r : Request} {p : Phase}

/-- The request issued is the one outstanding. -/
theorem State.MayIssue.outstanding (h : u.MayIssue r p) : (u.issue r p).outstanding = some r := by
  cases h <;> rfl

/-- The run goes on, and the phase entered belongs to the latched command (R28, R29, R205). -/
theorem control_issue (hu : u.Live) (h : u.MayIssue r p) : (u.issue r p).ControlOk := by
  cases h <;> simp_all [State.ControlOk, State.ended, State.isDone, State.isFault, Phase.isReserved, hu.status,
    hu.closed, Status.code]

theorem buffers_issue (hu : u.Live) (h : u.MayIssue r p) : (u.issue r p).BuffersOk := by
  refine ⟨hu.frame_length, hu.chunk_length, hu.frameLen_le, hu.frameLen_even, hu.chunkLen_le, hu.decoded, ?_, ?_⟩
  · rintro rfl
    cases h with | rdStore _ _ hd => exact hd
  · rintro rfl
    cases h with | wrSend _ hf hl => exact ⟨hf, hl⟩

theorem offset_issue (hu : u.Live) (h : u.MayIssue r p) : (u.issue r p).OffsetOk := by
  refine ⟨hu.offset_le, ?_⟩
  rintro (rfl | rfl)
  · cases h with | rdRecv _ ho => exact ho
  · cases h with | rdStore _ ho _ => exact ho

theorem trace_issue (hu : u.Live) (h : u.MayIssue r p) : (u.issue r p).TraceOk := by
  refine ⟨fun _ => by simp [h.outstanding], ?_, by simp [hu.no_close, hu.closed], by simp [hu.closed], ?_,
    fun _ => by simp [hu.no_fault, Event.fault?]⟩
  · rintro rfl; cases h
  · rintro rfl; cases h

theorem inv_issue (hu : u.Live) (h : u.MayIssue r p) : (u.issue r p).Inv :=
  ⟨hu.cfg_wf, control_issue hu h, buffers_issue hu h, offset_issue hu h, trace_issue hu h, hu.stores⟩

end

/-! ### Ending a run -/

/-- Every fault's code is one of the fault codes (R28, R200). -/
theorem BlockFault.code_status_ge (f : BlockFault) : 16 ≤ f.status.code.toNat := by
  cases f <;> simp [BlockFault.status, Status.code]

section
variable {u : State} (hu : u.Live)
include hu

theorem inv_raise (f : BlockFault) : (u.raise f).Inv := by
  have hge := f.code_status_ge
  have hne : f.status ≠ .noResult := fun h => by simp [h, Status.code] at hge
  refine ⟨hu.cfg_wf, ?control, ?buffers, ⟨hu.offset_le, by simp⟩, ?trace, hu.stores⟩
  case control => simp [State.ControlOk, State.ended, State.isFault, Phase.isReserved, hge, hne]
  case buffers =>
    exact ⟨hu.frame_length, hu.chunk_length, hu.frameLen_le, hu.frameLen_even, hu.chunkLen_le, rfl, by simp,
      by simp⟩
  case trace => simp [State.TraceOk, State.outstanding, hu.no_close, hu.no_fault, Event.fault?]

theorem inv_enterDone {st : Status} (hst : st = .ok ∨ st = .notImplemented) : (u.enterDone st).Inv := by
  refine ⟨hu.cfg_wf, ?control, ?buffers, ⟨hu.offset_le, by simp⟩, ?trace, hu.stores⟩
  case control =>
    rcases hst with rfl | rfl <;> simp [State.ControlOk, State.ended, State.isDone, Phase.isReserved, Status.code]
  case buffers =>
    exact ⟨hu.frame_length, hu.chunk_length, hu.frameLen_le, hu.frameLen_even, hu.chunkLen_le, hu.decoded,
      by simp, by simp⟩
  case trace => simp [State.TraceOk, State.outstanding, hu.no_close, hu.no_fault, Event.fault?]

end

/-! ### How a transition ends -/

/-- The four ways in which a transition ends (R9) that finds the events `es`: it adds nothing to them, or it issues one
request, or it ends the run normally (R204), or in a fault (R203). In the last three the block is live up to the end. -/
inductive EndsIn (es : List Event) : State → Prop where
  | quiet {t : State} (ht : t.Inv) (htr : t.trace = es) : EndsIn es t
  | request {u : State} {r : Request} {p : Phase} (hu : u.Live) (htr : u.trace = es) (hr : u.MayIssue r p) :
      EndsIn es (u.issue r p)
  | closed {u : State} {st : Status} (hu : u.Live) (htr : u.trace = es) (hst : st = .ok ∨ st = .notImplemented) :
      EndsIn es (u.enterDone st)
  | faulted {u : State} (f : BlockFault) (hu : u.Live) (htr : u.trace = es) : EndsIn es (u.raise f)

theorem EndsIn.inv {es : List Event} {t : State} (h : EndsIn es t) : t.Inv := by
  cases h with
  | quiet ht => exact ht
  | request hu _ hr => exact inv_issue hu hr
  | closed hu _ hst => exact inv_enterDone hu hst
  | faulted f hu => exact inv_raise hu f

/-- What a transition adds to the events (R9, R61). -/
theorem EndsIn.trace_cases {es : List Event} {t : State} (h : EndsIn es t) :
    t.trace = es ∨
    (∃ r, t.outstanding = some r ∧ t.trace = es ++ [.request r]) ∨
    (t.fsm = .done ∧ t.trace = es ++ [.close]) ∨
    (t.fsm = .fault ∧ ∃ f, t.trace = es ++ [.fault f, .close]) := by
  cases h with
  | quiet _ htr => exact .inl htr
  | request _ htr hr => exact .inr (.inl ⟨_, hr.outstanding, by simp [htr]⟩)
  | closed _ htr => exact .inr (.inr (.inl ⟨rfl, by simp [htr]⟩))
  | faulted f _ htr => exact .inr (.inr (.inr ⟨rfl, f, by simp [htr]⟩))

/-- The group a device may send is no longer than the request (R57). -/
theorem State.length_rxGroup_le (s : State) (max n : Nat) : (s.rxGroup max n).length ≤ max := by
  simp only [State.rxGroup, List.length_take]
  omega

/-- From a state that meets the invariant, every transition ends in one of the four ways. -/
theorem Moves.endsIn {s t : State} (hs : s.Inv) (m : Moves s t) : EndsIn s.trace t := by
  cases m with
  | ignored => exact .quiet hs rfl
  | startIgnored sp => exact .quiet hs rfl
  | startSent sp b h hb =>
    exact .request (((hs.live h (by decide)).present sp).latch b) rfl (.sendCmd hb)
  | startErase sp h => exact .closed (((hs.live h (by decide)).present sp).latch _) rfl (.inr rfl)
  | startFault sp f h => exact .faulted _ ((hs.live h (by decide)).present sp) rfl
  | commandFault bs f h => exact .faulted _ ((hs.live h (by decide)).deliver bs) rfl
  | commandRead bs h hc =>
    have hu := (hs.live h (by decide)).deliver bs
    exact .request (hu.setOffset (Nat.zero_le _)) rfl (.rdRecv hc hu.cfg_wf.1)
  | commandWrite bs h hc => exact .request ((hs.live h (by decide)).deliver bs) rfl (.wrHdr hc)
  | commandUnlock bs h => exact .closed ((hs.live h (by decide)).deliver bs) rfl (.inl rfl)
  | frameFault n f h => exact .faulted _ ((hs.live h (by decide)).takeRx _ n) rfl
  | frameStored n h he =>
    have hu := (hs.live h (by decide)).takeRx s.cfg.frameMax n
    have hg := s.length_rxGroup_le s.cfg.frameMax n
    have heq := hu.storeFrame_eq_issue hg
    simp only [State.takeRx_decoded] at heq
    rw [heq]
    exact .request (hu.holdFrame hg he) rfl
      (.rdStore (hs.read_command (.inl h)) (hs.offset_lt (.inl h)) (hu.decode_holdFrame hg he))
  | sinkFault k h => exact .faulted _ ((hs.live h (by decide)).appendSink _) rfl
  | storeDone h =>
    have hu := hs.live h (by decide)
    exact .closed ((hu.appendSink _).setOffset (hu.nextOffset_le (hs.offset_lt (.inr h)))) rfl (.inl rfl)
  | storeLoop h hc =>
    have hu := hs.live h (by decide)
    exact .request ((hu.appendSink _).setOffset (hu.nextOffset_le (hs.offset_lt (.inr h)))) rfl
      (.rdRecv (hs.read_command (.inr h)) hc)
  | headerFault n f h => exact .faulted _ ((hs.live h (by decide)).takeRx 2 n) rfl
  | headerServe n a h =>
    exact .request (((hs.live h (by decide)).takeRx 2 n).setAddr a) rfl (.wrFetch (hs.write_command (.inl h)))
  | headerEnd n a h => exact .closed (((hs.live h (by decide)).takeRx 2 n).setAddr a) rfl (.inl rfl)
  | fetchFault f h => exact .faulted _ (hs.live h (by decide)) rfl
  | fetchSent c n h hc =>
    have hu := hs.live h (by decide)
    rw [sendChunk_eq_issue]
    exact .request (hu.holdChunk hc n) rfl
      (.wrSend (hs.write_command (.inr (.inl h))) rfl (hu.holdChunk_frameLen n))
  | sendFault bs f h => exact .faulted _ ((hs.live h (by decide)).deliver bs) rfl
  | sendDone bs h =>
    exact .request ((hs.live h (by decide)).deliver bs) rfl (.wrHdr (hs.write_command (.inr (.inr h))))

/-! ### Reset -/

/-- The R230 values meet the invariant, under every well-formed setting and beside canonical stores. -/
theorem inv_resetWith {p : Params} {e : Env} (hp : p.wf) (he : Memory.wf e.sink ∧ Memory.wf e.source) (n : Nat) :
    (State.resetWith p n e).Inv := by
  refine ⟨hp, ?control, ?buffers, ⟨Nat.zero_le _, by simp⟩, ?trace, he⟩
  case control => simp [State.ControlOk, State.ended, State.isDone, State.isFault, Phase.isReserved, Status.code]
  case buffers => simp [State.BuffersOk]
  case trace => simp [State.TraceOk, State.outstanding]

/-- An abandoned request has not written the source. -/
@[simp] theorem State.abandon_source (s : State) (k : Nat) : (s.abandon k).env.source = s.env.source := by
  unfold State.abandon
  split <;> rfl

/-- An abandoned request leaves both stores canonical: at most it has appended to the sink. -/
theorem State.storesOk_abandon {s : State} (hs : s.StoresOk) (k : Nat) : (s.abandon k).StoresOk := by
  unfold State.abandon
  split
  case h_3 v _ => exact ⟨Memory.wf_append _ hs.1, hs.2⟩
  all_goals exact hs

theorem inv_resetAction {s : State} (hs : s.Inv) (k : Nat) : (s.resetAction k).Inv := by
  obtain ⟨hcfg, _, _, _, _, hstores⟩ := hs
  exact inv_resetWith hcfg (State.storesOk_abandon hstores k) _

/-! ### Steps -/

/-- Consuming an input touches nothing the invariant speaks of. -/
theorem State.Inv.withInputs {s : State} (hs : s.Inv) (rest : List Input) : (s.withInputs rest).Inv := hs

/-- From a state that meets the invariant a step is a reset or ends in one of the four ways. Waiting is the
quiet one. -/
theorem step_endsIn {s t : State} (hs : s.Inv) (h : step s = .next t) :
    (∃ k rest, s.env.inputs = .reset k :: rest ∧ t = (s.withInputs rest).resetAction k) ∨ EndsIn s.trace t := by
  rcases step_moves h with ⟨-, rfl⟩ | hreset | ⟨inp, rest, -, -, m⟩
  · exact .inr (.quiet hs rfl)
  · exact .inl hreset
  · have hends := m.endsIn (hs.withInputs rest)
    exact .inr hends

/-- No transition writes the parameters or the source: none of the named updates it is composed of does. -/
theorem Moves.cfg_source {s t : State} (m : Moves s t) : t.cfg = s.cfg ∧ t.env.source = s.env.source := by
  cases m <;> exact ⟨rfl, rfl⟩

/-- Settles O43: the reference parameters are well formed, and the stores are empty. -/
theorem resetMeetsInvariant : Obligations.ResetMeetsInvariant :=
  inv_resetWith (by decide) ⟨.nil, .nil⟩ 0

/-- Settles O42: a reset enters a state that meets the invariant, and so does each way a transition ends. -/
theorem stepKeepsInvariant : Obligations.StepKeepsInvariant := by
  intro s t hs h
  rcases step_endsIn hs h with ⟨k, rest, -, rfl⟩ | hends
  · exact inv_resetAction (hs.withInputs rest) k
  · exact hends.inv

/-- Settles O48, transition by transition; a reset abandons the outstanding request and writes no source. -/
theorem parametersAndSourceAreFixed : Obligations.ParametersAndSourceAreFixed := by
  intro s t h
  rcases step_moves h with ⟨-, rfl⟩ | ⟨k, rest, -, rfl⟩ | ⟨inp, rest, -, -, m⟩
  · exact ⟨rfl, rfl⟩
  · exact ⟨rfl, State.abandon_source _ k⟩
  · exact m.cfg_source

/-- Settles O52, by the four ways a transition ends. -/
theorem transitionIssuesAtMostOneRequest : Obligations.TransitionIssuesAtMostOneRequest := by
  intro s t hs h hr
  rcases step_endsIn hs h with ⟨k, rest, hi, -⟩ | hends
  · simp [State.nextIsReset, hi, Input.isReset] at hr
  · exact hends.trace_cases

end Sys2Proof.Machine

/-! PROOFS. The state and its rules: the codes of `state` and `status`, which step is a reset and which a transition, the
control invariant on its own, that no step stops under it, and which registers a transition may write. -/

namespace Sys2Proof.Machine

/-! ### Codes -/

/-- The FSM state that a 4-bit code stands for (R21, R31). -/
def Phase.ofCode (c : BitVec 4) : Phase :=
  match c.toNat with
  | 0x0 => .idle
  | 0x1 => .sendCmd
  | 0x2 => .rdRecv
  | 0x3 => .rdStore
  | 0x4 => .wrHdr
  | 0x5 => .wrFetch
  | 0x6 => .wrSend
  | 0xE => .done
  | 0xF => .fault
  | n => .reserved (Fin.ofNat 7 (n - 0x7))

/-- The status that a 5-bit code stands for (R28). -/
def Status.ofCode (c : BitVec 5) : Status :=
  match c.toNat with
  | 0 => .noResult
  | 1 => .ok
  | 2 => .notImplemented
  | 16 => .shortWriteError
  | 17 => .oddFrameLengthError
  | 18 => .missingInputError
  | 19 => .rxError
  | 20 => .shortHeaderError
  | 21 => .sinkError
  | 22 => .sourceError
  | 23 => .illegalCommand
  | 24 => .badHexDigitError
  | 25 => .shortReadError
  | n => .reserved (Fin.ofNat 19 (if n < 16 then n - 3 else n - 13))

theorem Phase.code_ofCode : ∀ c : BitVec 4, (Phase.ofCode c).code = c := by decide

theorem Phase.ofCode_code (p : Phase) : Phase.ofCode p.code = p := by
  cases p with
  | reserved k => revert k; decide
  | _ => rfl

theorem Status.code_ofCode : ∀ c : BitVec 5, (Status.ofCode c).code = c := by decide

theorem Status.ofCode_code (st : Status) : Status.ofCode st.code = st := by
  cases st with
  | reserved k => revert k; decide
  | _ => rfl

theorem Phase.code_bijective : Function.Bijective Phase.code :=
  Function.bijective_iff_has_inverse.2 ⟨Phase.ofCode, Phase.ofCode_code, Phase.code_ofCode⟩

theorem Status.code_bijective : Function.Bijective Status.code :=
  Function.bijective_iff_has_inverse.2 ⟨Status.ofCode, Status.ofCode_code, Status.code_ofCode⟩

/-- A fault's code is one of the ten that R200 lists. -/
theorem BlockFault.code_status_mem_range (f : BlockFault) :
    16 ≤ f.status.code.toNat ∧ f.status.code.toNat ≤ 25 := by
  cases f <;> simp [BlockFault.status, Status.code]

/-- Settles O5: the codes are bijections, with the tables read backwards as inverses. -/
theorem stateAndStatusCodes : Obligations.StateAndStatusCodes :=
  ⟨Phase.code_bijective.existsUnique, Status.code_bijective.existsUnique, rfl, rfl, BlockFault.code_status_mem_range,
    fun _ => rfl, fun _ => rfl, rfl, rfl, fun _ => rfl, rfl, rfl, fun _ => rfl, rfl, fun _ => rfl⟩

/-- Settles O36: the fields of `State.resetWith`. -/
theorem resetStateValues : Obligations.ResetStateValues :=
  ⟨rfl, rfl, rfl, rfl, rfl, rfl, rfl, rfl, rfl, rfl⟩

/-! ### A step is a reset or a transition -/

theorem State.nextIsReset_of_reset {s : State} {k : Nat} {rest : List Input} (hi : s.env.inputs = .reset k :: rest) :
    s.nextIsReset = true := by
  simp [State.nextIsReset, hi, Input.isReset]

theorem State.inputs_ne_reset {s : State} (hr : s.nextIsReset = false) (k : Nat) (rest : List Input) :
    s.env.inputs ≠ .reset k :: rest := by
  intro hi
  simp [State.nextIsReset_of_reset hi] at hr

/-- `step_moves` with waiting read as the transition that changes nothing. -/
theorem step_reset_or_move {s t : State} (h : step s = .next t) :
    (∃ k rest, s.env.inputs = .reset k :: rest ∧ t = (s.withInputs rest).resetAction k) ∨
    ∃ rest, Moves (s.withInputs rest) t := by
  rcases step_moves h with ⟨-, rfl⟩ | hreset | ⟨inp, rest, -, -, m⟩
  · exact .inr ⟨t.env.inputs, .ignored⟩
  · exact .inl hreset
  · exact .inr ⟨rest, m⟩

/-- Without a reset a step is a transition. -/
theorem step_move {s t : State} (h : step s = .next t) (hr : s.nextIsReset = false) :
    ∃ rest, Moves (s.withInputs rest) t := by
  rcases step_reset_or_move h with ⟨k, rest, hi, -⟩ | m
  · exact absurd hi (State.inputs_ne_reset hr k rest)
  · exact m

/-! ### The control invariant on its own -/

/-- A busy phase, and the latched command it belongs to (R205). -/
inductive Phase.BelongsTo : Phase → Byte → Prop where
  | sendCmd {c : Byte} (hc : c = 0x52#8 ∨ c = 0x57#8 ∨ c = 0x55#8) : BelongsTo .sendCmd c
  | rdRecv : BelongsTo .rdRecv 0x52#8
  | rdStore : BelongsTo .rdStore 0x52#8
  | wrHdr : BelongsTo .wrHdr 0x57#8
  | wrFetch : BelongsTo .wrFetch 0x57#8
  | wrSend : BelongsTo .wrSend 0x57#8

/-- The run has not ended: no result, and no Close yet (R28, R29). -/
def State.Unended (s : State) : Prop := s.status = .noResult ∧ s.closed = false

theorem State.ControlOk.unended {s : State} {p : Phase} (hs : s.ControlOk) (h : s.fsm = p)
    (hp : p ≠ .done ∧ p ≠ .fault) : s.Unended := by
  have he := ended_eq_false_of_fsm h hp
  obtain ⟨-, hclosed, hstatus, -⟩ := hs
  exact ⟨hstatus.2 he, hclosed.trans he⟩

theorem State.ControlOk.sendCmd_command {s : State} (hs : s.ControlOk) (h : s.fsm = .sendCmd) :
    s.cmd = 0x52#8 ∨ s.cmd = 0x57#8 ∨ s.cmd = 0x55#8 := by
  obtain ⟨-, -, -, -, -, hsend, -⟩ := hs
  exact hsend h

theorem State.ControlOk.read_command {s : State} (hs : s.ControlOk) (h : s.fsm = .rdRecv ∨ s.fsm = .rdStore) :
    s.cmd = 0x52#8 := by
  obtain ⟨-, -, -, -, -, -, hread, -⟩ := hs
  exact hread h

theorem State.ControlOk.write_command {s : State} (hs : s.ControlOk)
    (h : s.fsm = .wrHdr ∨ s.fsm = .wrFetch ∨ s.fsm = .wrSend) : s.cmd = 0x57#8 := by
  obtain ⟨-, -, -, -, -, -, -, hwrite⟩ := hs
  exact hwrite h

/-- A state of a run that has not ended, in a phase that belongs to its command. -/
theorem controlOk_of_belongsTo {t : State} {c : Byte} (ht : t.Unended) (hc : t.cmd = c) (hp : t.fsm.BelongsTo c) :
    t.ControlOk := by
  obtain ⟨hstatus, hclosed⟩ := ht
  generalize hf : t.fsm = p at hp
  cases hp <;> simp_all [State.ControlOk, State.ended, State.isDone, State.isFault, Phase.isReserved, Status.code]

theorem controlOk_raise (u : State) (f : BlockFault) : (u.raise f).ControlOk := by
  have hge := f.code_status_ge
  have hne : f.status ≠ .noResult := fun h => by simp [h, Status.code] at hge
  simp [State.ControlOk, State.ended, State.isFault, Phase.isReserved, hge, hne]

theorem controlOk_enterDone (u : State) {st : Status} (hst : st = .ok ∨ st = .notImplemented) :
    (u.enterDone st).ControlOk := by
  rcases hst with rfl | rfl <;> simp [State.ControlOk, State.ended, State.isDone, Phase.isReserved, Status.code]

theorem controlOk_resetWith (p : Params) (n : Nat) (e : Env) : (State.resetWith p n e).ControlOk := by
  simp [State.ControlOk, State.ended, State.isDone, State.isFault, Phase.isReserved, Status.code]

/-- Every transition ends the run, which any state may, or enters a phase of the command it runs under. -/
theorem Moves.controlOk {s t : State} (hs : s.ControlOk) (m : Moves s t) : t.ControlOk := by
  cases m with
  | ignored => exact hs
  | startIgnored => exact hs
  | startSent sp b h hb => exact controlOk_of_belongsTo (hs.unended h (by decide)) rfl (.sendCmd hb)
  | commandRead bs h hc => exact controlOk_of_belongsTo (hs.unended h (by decide)) hc .rdRecv
  | commandWrite bs h hc => exact controlOk_of_belongsTo (hs.unended h (by decide)) hc .wrHdr
  | frameStored n h =>
    exact controlOk_of_belongsTo (hs.unended h (by decide)) (hs.read_command (.inl h)) .rdStore
  | storeLoop h => exact controlOk_of_belongsTo (hs.unended h (by decide)) (hs.read_command (.inr h)) .rdRecv
  | headerServe n a h =>
    exact controlOk_of_belongsTo (hs.unended h (by decide)) (hs.write_command (.inl h)) .wrFetch
  | fetchSent c n h =>
    exact controlOk_of_belongsTo (hs.unended h (by decide)) (hs.write_command (.inr (.inl h))) .wrSend
  | sendDone bs h =>
    exact controlOk_of_belongsTo (hs.unended h (by decide)) (hs.write_command (.inr (.inr h))) .wrHdr
  | startErase | commandUnlock | storeDone | headerEnd => exact controlOk_enterDone _ (by decide)
  | startFault | commandFault | frameFault | sinkFault | headerFault | fetchFault | sendFault =>
    exact controlOk_raise _ _

/-- Settles O40: a reset enters a state that meets the control invariant, and so does every transition. -/
theorem stepKeepsControl : Obligations.StepKeepsControl := by
  intro s t hs h
  rcases step_reset_or_move h with ⟨k, rest, -, rfl⟩ | ⟨rest, m⟩
  · exact controlOk_resetWith _ _ _
  · have hrest : (s.withInputs rest).ControlOk := hs
    exact m.controlOk hrest

/-! ### No step stops -/

theorem takeDigit_next (v : Nibble) (s : State) : ∃ t, takeDigit v s = .next t := by
  unfold takeDigit
  split <;> exact ⟨_, rfl⟩

/-- Every instruction answers a next state in every state. -/
theorem exec_next (i : Instr) (s : State) : ∃ t, exec i s = .next t := by
  cases i <;> simp only [exec]
  case read => unfold execRead; split <;> exact ⟨_, rfl⟩
  case write => unfold execWrite; split_ifs <;> exact ⟨_, rfl⟩
  case erase => unfold execErase; split <;> exact ⟨_, rfl⟩
  case unlock => unfold execUnlock; split <;> exact ⟨_, rfl⟩
  case cmdIllegal => unfold execCmdIllegal; split <;> exact ⟨_, rfl⟩
  case hdrServe => unfold execHdrServe; split <;> exact ⟨_, rfl⟩
  case hdrEnd => unfold execHdrEnd; split <;> exact ⟨_, rfl⟩
  case digInvalid =>
    unfold execDigInvalid
    split
    · split <;> exact ⟨_, rfl⟩
    · exact ⟨_, rfl⟩
  all_goals exact takeDigit_next _ s

/-- The case of R142 lists every command that is ever sent. -/
theorem dispatchCommand_next {u : State} (hc : u.cmd = 0x52#8 ∨ u.cmd = 0x57#8 ∨ u.cmd = 0x55#8) :
    ∃ t, u.dispatchCommand = .next t := by
  rcases hc with hc | hc | hc
  · exact ⟨_, dispatchCommand_read hc⟩
  · cases hm : u.cfg.missingInputAfterCmd with
    | false => exact ⟨_, dispatchCommand_write hc (.inl hm)⟩
    | true =>
      cases hp : u.srcPresent with
      | false => exact ⟨_, dispatchCommand_missing hc hm hp⟩
      | true => exact ⟨_, dispatchCommand_write hc (.inr hp)⟩
  · exact ⟨_, dispatchCommand_unlock hc⟩

theorem commandByteAnswer_next (a : TxAnswer) {s : State} (hc : s.cmd = 0x52#8 ∨ s.cmd = 0x57#8 ∨ s.cmd = 0x55#8) :
    ∃ t, commandByteAnswer a s = .next t := by
  by_cases hw : a.response [s.cmd] = .written 1
  · rw [commandByteAnswer_written hw]
    exact dispatchCommand_next (u := s.deliver [s.cmd]) hc
  · exact ⟨_, commandByteAnswer_short hw⟩

theorem frameAnswer_next (a : RxAnswer) {s : State} (hs : s.fsm = .rdRecv) : ∃ t, frameAnswer a s = .next t := by
  cases a with
  | err k => exact ⟨_, rfl⟩
  | group n =>
    rcases Nat.mod_two_eq_zero_or_one (s.rxGroup s.cfg.frameMax n).length with he | ho
    · rw [frameAnswer_even he, decodeAndStore_eq _ (s := s.takeRx s.cfg.frameMax n) hs]
      split <;> exact ⟨_, rfl⟩
    · exact ⟨_, frameAnswer_odd ho⟩

theorem headerAnswer_next (a : RxAnswer) (s : State) : ∃ t, headerAnswer a s = .next t := by
  cases a with
  | err k => exact ⟨_, rfl⟩
  | group n =>
    simp only [headerAnswer]
    split
    · exact exec_next _ _
    · exact ⟨_, rfl⟩

theorem react_next (inp : Input) {s : State} (hs : s.ControlOk) : ∃ t, react inp s = .next t := by
  cases inp <;> simp only [react]
  case reset k => exact ⟨_, rfl⟩
  case start c sp =>
    split
    · exact exec_next _ _
    · exact ⟨_, rfl⟩
  case tx a =>
    split_ifs with h
    · exact commandByteAnswer_next a (hs.sendCmd_command h)
    · exact ⟨_, rfl⟩
    · exact ⟨_, rfl⟩
  case rx a =>
    split_ifs with h
    · exact frameAnswer_next a h
    · exact headerAnswer_next a s
    · exact ⟨_, rfl⟩
  case sink a => split <;> exact ⟨_, rfl⟩
  case src a => split <;> exact ⟨_, rfl⟩

/-- Settles O44: no phase is reserved, so the block waits or reacts, and the command it dispatches is one R142 lists. -/
theorem stepNeverStopsUnderControl : Obligations.StepNeverStopsUnderControl := by
  intro s hs
  have ⟨hlegal, _⟩ := hs
  cases hi : s.env.inputs with
  | nil => exact ⟨s, step_wait hlegal hi⟩
  | cons inp rest =>
    have hrest : (s.withInputs rest).ControlOk := hs
    rw [step_input hlegal hi]
    exact react_next inp hrest

/-- Settles O45, by induction on the length of the run: the invariant gives each step a next state and holds there. -/
theorem runsNeverStopAndKeepInvariant : Obligations.RunsNeverStopAndKeepInvariant := by
  intro s k
  induction k generalizing s with
  | zero => exact fun hs => ⟨s, run_zero s, hs⟩
  | succ k ih =>
    intro hs
    have ⟨_, hcontrol, _⟩ := hs
    obtain ⟨u, hu⟩ := stepNeverStopsUnderControl s hcontrol
    obtain ⟨t, ht, hinv⟩ := ih u (stepKeepsInvariant s u hs hu)
    exact ⟨t, (run_next k hu).trans ht, hinv⟩

/-! ### Inputs that are not for the block -/

theorem react_tx_dropped {s : State} (h1 : s.fsm ≠ .sendCmd) (h2 : s.fsm ≠ .wrSend) (a : TxAnswer) :
    react (.tx a) s = .next s := by
  simp [react, h1, h2]

theorem react_rx_dropped {s : State} (h1 : s.fsm ≠ .rdRecv) (h2 : s.fsm ≠ .wrHdr) (a : RxAnswer) :
    react (.rx a) s = .next s := by
  simp [react, h1, h2]

theorem react_sink_dropped {s : State} (h : s.fsm ≠ .rdStore) (a : SinkAnswer) : react (.sink a) s = .next s := if_neg h

theorem react_src_dropped {s : State} (h : s.fsm ≠ .wrFetch) (a : SrcAnswer) : react (.src a) s = .next s := if_neg h

/-- Settles O38: each port's answer is consumed, and `react` drops it. -/
theorem answersToNoRequestAreDropped : Obligations.AnswersToNoRequestAreDropped := fun s rest hr =>
  ⟨fun a hi h1 h2 => (step_input hr hi).trans (react_tx_dropped (s := s.withInputs rest) h1 h2 a),
    fun a hi h1 h2 => (step_input hr hi).trans (react_rx_dropped (s := s.withInputs rest) h1 h2 a),
    fun a hi h => (step_input hr hi).trans (react_sink_dropped (s := s.withInputs rest) h a),
    fun a hi h => (step_input hr hi).trans (react_src_dropped (s := s.withInputs rest) h a)⟩

/-- In DONE and FAULT an input other than reset at most drives the line `src_present_in`. -/
theorem react_terminal {s : State} {inp : Input} (h : s.fsm = .done ∨ s.fsm = .fault) (hr : inp.isReset = false) :
    ∃ sp, react inp s = .next (s.present sp) := by
  have hne : ∀ p : Phase, p ≠ .done ∧ p ≠ .fault → s.fsm ≠ p := by
    rintro p ⟨hd, hf⟩ rfl
    exact h.elim hd hf
  cases inp with
  | reset k => cases hr
  | start c sp => exact ⟨sp, react_start_ignored (hne _ (by decide)) c sp⟩
  | tx a => exact ⟨_, react_tx_dropped (hne _ (by decide)) (hne _ (by decide)) a⟩
  | rx a => exact ⟨_, react_rx_dropped (hne _ (by decide)) (hne _ (by decide)) a⟩
  | sink a => exact ⟨_, react_sink_dropped (hne _ (by decide)) a⟩
  | src a => exact ⟨_, react_src_dropped (hne _ (by decide)) a⟩

/-- DONE and FAULT are absorbing: a step consumes an input and changes no register and no store. -/
theorem step_terminal {s : State} (h : s.fsm = .done ∨ s.fsm = .fault) (hr : s.nextIsReset = false) :
    ∃ e : Env, step s = .next { s with env := e } ∧ s.SameBytes { s with env := e } := by
  have hlegal : s.fsm.isReserved = false := by rcases h with h | h <;> exact not_reserved h rfl
  cases hi : s.env.inputs with
  | nil => exact ⟨s.env, step_wait hlegal hi, fun _ => rfl, fun _ => rfl⟩
  | cons inp rest =>
    have hinp : inp.isReset = false := by simpa [State.nextIsReset, hi] using hr
    obtain ⟨sp, hreact⟩ := react_terminal (s := s.withInputs rest) h hinp
    exact ⟨_, (step_input hlegal hi).trans hreact, fun _ => rfl, fun _ => rfl⟩

/-- No transition enters a reserved code: each stays where it is or enters a named phase. -/
theorem Moves.not_reserved {s t : State} (hs : s.fsm.isReserved = false) (m : Moves s t) : t.fsm.isReserved = false := by
  cases m with
  | ignored | startIgnored => exact hs
  | _ => rfl

/-- Settles O34: `step_terminal`; resets and transitions enter named phases only; a reserved code stops every step but
a reset. -/
theorem terminalStatesAbsorb : Obligations.TerminalStatesAbsorb := by
  refine ⟨fun s => step_terminal, ?legal, ?stuck⟩
  case legal =>
    intro s t hs h
    rcases step_reset_or_move h with ⟨k, rest, -, rfl⟩ | ⟨rest, m⟩
    · rfl
    · have hrest : (s.withInputs rest).fsm.isReserved = false := hs
      exact m.not_reserved hrest
  case stuck =>
    intro s t hs hr h
    rw [step_reserved hs (State.inputs_ne_reset hr)] at h
    cases h

/-! ### Which registers a transition writes -/

/-- The three things a transition can do to `offset` (R24, R161, R164). -/
theorem Moves.offset_cases {s t : State} (m : Moves s t) :
    t.offset = s.offset ∨
    (s.fsm = .rdStore ∧ t.offset = s.nextOffset) ∨
    (s.fsm = .sendCmd ∧ t.fsm = .rdRecv ∧ t.offset = 0#16) := by
  cases m with
  | storeDone h | storeLoop h => exact .inr (.inl ⟨h, rfl⟩)
  | commandRead bs h => exact .inr (.inr ⟨h, rfl, rfl⟩)
  | _ => exact .inl rfl

/-- Only a start transition latches the command port (R22, R23). -/
theorem Moves.command_eq {s t : State} (m : Moves s t) (hs : s.fsm ≠ .idle) :
    t.cmd = s.cmd ∧ t.srcPresent = s.srcPresent := by
  cases m with
  | startSent _ _ h | startErase _ h => exact absurd h hs
  | _ => exact ⟨rfl, rfl⟩

/-- Only a header writes `addr` (R25). -/
theorem Moves.addr_eq {s t : State} (m : Moves s t) (hs : s.fsm ≠ .wrHdr) : t.addr = s.addr := by
  cases m with
  | headerServe _ _ h | headerEnd _ _ h => exact absurd h hs
  | _ => rfl

/-- Only a received frame or a fetched chunk writes the buffers and their lengths (R26, R27). -/
theorem Moves.buffers_eq {s t : State} (m : Moves s t) (hr : s.fsm ≠ .rdRecv) (hw : s.fsm ≠ .wrFetch) :
    t.frame = s.frame ∧ t.frameLen = s.frameLen ∧ t.chunk = s.chunk ∧ t.chunkLen = s.chunkLen := by
  cases m with
  | frameStored _ h => exact absurd h hr
  | fetchSent _ _ h => exact absurd h hw
  | _ => exact ⟨rfl, rfl, rfl, rfl⟩

/-- Settles O46: a store's count does not wrap, since the session began it below CHIP_SIZE. -/
theorem offsetOnlyAdvancesAndNeverWraps : Obligations.OffsetOnlyAdvancesAndNeverWraps := by
  intro s t hs h hr
  obtain ⟨rest, m⟩ := step_move h hr
  rcases m.offset_cases with hkept | ⟨hstore, hnext⟩ | hentry
  · exact .inl hkept
  · have hsum := ((hs.withInputs rest).live hstore (by decide)).nextOffset_toNat
      ((hs.withInputs rest).offset_lt (.inr hstore))
    exact .inr (.inl ⟨hstore, (congrArg BitVec.toNat hnext).trans hsum⟩)
  · exact .inr (.inr hentry)

/-- Settles O47, register by register. -/
theorem registersAreWrittenOnlyInTheirState : Obligations.RegistersAreWrittenOnlyInTheirState := by
  intro s t h hr
  obtain ⟨rest, m⟩ := step_move h hr
  exact ⟨m.command_eq, m.addr_eq, m.buffers_eq⟩

end Sys2Proof.Machine

/-! PROOFS. The ports and the byte stores (20_memory.md sections 1 and 4): what a step does to the device's bytes and to
the sink, said once as `Serves`; the source as a byte string; a request that is not answered. -/

namespace Sys2Proof.Machine

/-! ### What a step does at the ports -/

/-- The device's bytes, the bytes at the device and the sink are as before. -/
structure State.SamePorts (s t : State) : Prop where
  rxStream : t.env.rxStream = s.env.rxStream
  txSent : t.env.txSent = s.env.txSent
  sink : t.env.sink = s.env.sink

/-- What the environment may do to the ports between `s` and `t`: nothing, or a part of the request outstanding in `s`
(R54, R57, R58, R60). -/
inductive State.Serves (s t : State) : Prop where
  | untouched (h : s.SamePorts t)
  | sent {q bs : List Byte} (ho : s.outstanding = some (.txSend q)) (hb : bs <+: q) (h : (s.deliver bs).SamePorts t)
  | received {max : Nat} (n : Nat) (ho : s.outstanding = some (.rxRecv max)) (h : (s.takeRx max n).SamePorts t)
  | appended {v bs : List Byte} (ho : s.outstanding = some (.memWrite v)) (hb : bs <+: v)
      (h : (s.appendSink bs).SamePorts t)

section
variable {s : State}

theorem State.outstanding_sendCmd (h : s.fsm = .sendCmd) : s.outstanding = some (.txSend [s.cmd]) := by
  simp only [State.outstanding, h]

theorem State.outstanding_rdRecv (h : s.fsm = .rdRecv) : s.outstanding = some (.rxRecv s.cfg.frameMax) := by
  simp only [State.outstanding, h]

theorem State.outstanding_rdStore (h : s.fsm = .rdStore) : s.outstanding = some (.memWrite s.chunkBytes) := by
  simp only [State.outstanding, h]

theorem State.outstanding_wrHdr (h : s.fsm = .wrHdr) : s.outstanding = some (.rxRecv 2) := by
  simp only [State.outstanding, h]

theorem State.outstanding_wrSend (h : s.fsm = .wrSend) : s.outstanding = some (.txSend s.frameBytes) := by
  simp only [State.outstanding, h]

/-- The two phases that receive, and how much they ask for (R162, R181). -/
theorem State.receiving_of_outstanding {max : Nat} (h : s.outstanding = some (.rxRecv max)) :
    (s.fsm = .rdRecv ∧ max = s.cfg.frameMax) ∨ (s.fsm = .wrHdr ∧ max = 2) := by
  cases hf : s.fsm <;> simp_all [State.outstanding]

/-- The one phase that appends, and what it asks to append (R163). -/
theorem State.storing_of_outstanding {v : List Byte} (h : s.outstanding = some (.memWrite v)) :
    s.fsm = .rdStore ∧ v = s.chunkBytes := by
  cases hf : s.fsm <;> simp_all [State.outstanding]

end

theorem Moves.serves {s t : State} (m : Moves s t) : s.Serves t := by
  cases m with
  | ignored | startIgnored | startSent | startErase | startFault | fetchFault | fetchSent =>
    exact .untouched ⟨rfl, rfl, rfl⟩
  | commandFault bs f h hb => exact .sent (State.outstanding_sendCmd h) hb ⟨rfl, rfl, rfl⟩
  | commandRead bs h hc hb | commandWrite bs h hc hb | commandUnlock bs h hc hb =>
    exact .sent (State.outstanding_sendCmd h) (hb ▸ List.prefix_rfl) ⟨rfl, rfl, rfl⟩
  | frameFault n f h => exact .received n (State.outstanding_rdRecv h) ⟨rfl, rfl, rfl⟩
  | frameStored n h => exact .received n (State.outstanding_rdRecv h) ⟨rfl, rfl, rfl⟩
  | sinkFault k h => exact .appended (State.outstanding_rdStore h) (List.take_prefix k _) ⟨rfl, rfl, rfl⟩
  | storeDone h | storeLoop h => exact .appended (State.outstanding_rdStore h) List.prefix_rfl ⟨rfl, rfl, rfl⟩
  | headerFault n f h => exact .received n (State.outstanding_wrHdr h) ⟨rfl, rfl, rfl⟩
  | headerServe n a h | headerEnd n a h => exact .received n (State.outstanding_wrHdr h) ⟨rfl, rfl, rfl⟩
  | sendFault bs f h hb => exact .sent (State.outstanding_wrSend h) hb ⟨rfl, rfl, rfl⟩
  | sendDone bs h hb => exact .sent (State.outstanding_wrSend h) hb ⟨rfl, rfl, rfl⟩

/-- What an abandoned request has done by the time of a reset (R231, log 17) is a part of that request. -/
theorem State.serves_resetAction (s : State) (k : Nat) : s.Serves (s.resetAction k) := by
  have hports : (s.abandon k).SamePorts (s.resetAction k) := ⟨rfl, rfl, rfl⟩
  unfold State.abandon at hports
  split at hports
  · next q ho => exact .sent ho (List.take_prefix k q) hports
  · next max ho => exact .received k ho hports
  · next v ho => exact .appended ho (List.take_prefix k v) hports
  · exact .untouched hports
  · exact .untouched hports

/-- Which input is consumed is nothing the ports or the outstanding request show. -/
theorem State.Serves.of_withInputs {s t : State} {rest : List Input} (h : (s.withInputs rest).Serves t) :
    s.Serves t := by
  cases h with
  | untouched h => exact .untouched ⟨h.rxStream, h.txSent, h.sink⟩
  | sent ho hb h => exact .sent ho hb ⟨h.rxStream, h.txSent, h.sink⟩
  | received n ho h => exact .received n ho ⟨h.rxStream, h.txSent, h.sink⟩
  | appended ho hb h => exact .appended ho hb ⟨h.rxStream, h.txSent, h.sink⟩

/-- Everything a step does at the ports. -/
theorem step_serves {s t : State} (h : step s = .next t) : s.Serves t := by
  rcases step_reset_or_move h with ⟨k, rest, -, rfl⟩ | ⟨rest, m⟩
  · exact (State.serves_resetAction _ k).of_withInputs
  · exact m.serves.of_withInputs

/-- The group received and what the device still has to send are the bytes it had to send (R57). -/
theorem State.rxGroup_append_takeRx (s : State) (max n : Nat) :
    s.rxGroup max n ++ (s.takeRx max n).env.rxStream = s.env.rxStream :=
  List.take_append_drop _ _

/-- Settles O49: only RD_STORE has an append outstanding, and it carries the chunk. -/
theorem sinkGrowsOnlyByTheOutstandingAppend : Obligations.SinkGrowsOnlyByTheOutstandingAppend := by
  intro s t h
  cases step_serves h with
  | untouched hp | sent _ _ hp | received _ _ hp => exact .inl hp.sink
  | appended ho hb hp =>
    obtain ⟨hstore, rfl⟩ := State.storing_of_outstanding ho
    exact .inr ⟨hstore, _, hb, hp.sink⟩

/-- Settles O50: only RD_RECV and WR_HDR have a receive outstanding, and it takes one group of at most its size. -/
theorem receivedBytesAreTheNextOnes : Obligations.ReceivedBytesAreTheNextOnes := by
  intro s t h
  cases step_serves h with
  | untouched hp | sent _ _ hp | appended _ _ hp => exact ⟨[], hp.rxStream.symm, fun hne => absurd rfl hne⟩
  | @received max n ho hp =>
    have hle := s.length_rxGroup_le max n
    refine ⟨s.rxGroup max n, ?_, fun _ => ?_⟩
    · rw [hp.rxStream, s.rxGroup_append_takeRx]
    · rcases State.receiving_of_outstanding ho with ⟨hrecv, rfl⟩ | ⟨hhdr, rfl⟩
      · exact .inl ⟨hrecv, hle⟩
      · exact .inr ⟨hhdr, hle⟩

/-- Settles O51: what a step delivers is a part of the outstanding send. -/
theorem sentBytesAreAPrefixOfTheRequest : Obligations.SentBytesAreAPrefixOfTheRequest := by
  intro s t h
  cases step_serves h with
  | untouched hp | received _ _ hp | appended _ _ hp =>
    exact ⟨[], hp.txSent.trans (List.append_nil _).symm, fun hne => absurd rfl hne⟩
  | sent ho hb hp => exact ⟨_, hp.txSent, fun _ => ⟨_, ho, hb⟩⟩

/-! ### The byte stores -/

/-- Settles O41: the sink is as it was or appended to, and the source is as it was. -/
theorem stepKeepsStoresCanonical : Obligations.StepKeepsStoresCanonical := by
  rintro s t ⟨hsink, hsource⟩ h
  have ⟨_, hsame⟩ := parametersAndSourceAreFixed s t h
  refine ⟨?_, hsame ▸ hsource⟩
  rcases sinkGrowsOnlyByTheOutstandingAppend s t h with heq | ⟨-, bs, -, heq⟩
  · exact heq ▸ hsink
  · exact heq ▸ Memory.wf_append bs hsink

/-- The store that holds a byte string reads as its bytes, and as no byte past its end. -/
theorem Memory.read_ofBytes (S : List Byte) (a : Nat) : Memory.read (Memory.ofBytes S) a = S[a]? := by
  have hrun : Memory.ofBytes S = Memory.writeRun [] 0 S := rfl
  rw [hrun]
  rcases Nat.lt_or_ge a S.length with hlt | hge
  · simpa using Memory.read_writeRun_inside [] 0 S hlt
  · rw [Memory.read_writeRun_outside [] 0 S (.inr (by omega)), Memory.read_nil, List.getElem?_eq_none hge]

/-- Settles O53, by induction on the number of bytes read: the first is the one at `a`, if there is one. -/
theorem sourceReadIsTheSlice : Obligations.SourceReadIsTheSlice := by
  intro S a n
  induction n generalizing a with
  | zero => simp [Memory.readRun]
  | succ n ih =>
    rw [Memory.readRun, Memory.read_ofBytes]
    rcases Nat.lt_or_ge a S.length with hlt | hge
    · rw [List.getElem?_eq_getElem hlt, List.drop_eq_getElem_cons hlt, List.take_succ_cons]
      exact congrArg _ (ih (a + 1))
    · rw [List.getElem?_eq_none hge, List.drop_eq_nil_of_le hge, List.take_nil]

/-! ### A request that is not answered -/

/-- Settles O37, by induction on the number of steps: each one waits. -/
theorem unansweredRequestWaitsForever : Obligations.UnansweredRequestWaitsForever := by
  intro s k hr hi
  induction k with
  | zero => exact run_zero s
  | succ k ih => exact (run_next k (step_wait hr hi)).trans ih

end Sys2Proof.Machine

/-! PROOFS. R64: no data reach control but a header's address. The idea: `SameControl` is a bisimulation. Each operation
keeps it (`Laws/Control.lean`), so each instruction, each answer and each step does, and so does a run. -/

namespace Sys2Proof.Machine

/-- The two outcomes of one transition from states alike in control: next states alike in control, or, where `mayStop`,
the same stop. -/
inductive AlikeOutcomes (mayStop : Prop) :
    Host.Outcome State Fault Refusal → Host.Outcome State Fault Refusal → Prop where
  | next {s t : State} (h : SameControl s t) : AlikeOutcomes mayStop (.next s) (.next t)
  | stop (e : Fault) (h : mayStop) : AlikeOutcomes mayStop (.fault e) (.fault e)

theorem AlikeOutcomes.next_or_stop {P : Prop} {x y : Host.Outcome State Fault Refusal} (h : AlikeOutcomes P x y) :
    (∃ s t, x = .next s ∧ y = .next t ∧ SameControl s t) ∨ (P ∧ ∃ e, x = .fault e ∧ y = .fault e) := by
  cases h with
  | next h => exact .inl ⟨_, _, rfl, rfl, h⟩
  | stop e h => exact .inr ⟨h, e, rfl, rfl⟩

/-- Two choices by one condition. -/
theorem AlikeOutcomes.ite {P c d : Prop} [Decidable c] [Decidable d] {x y x' y' : Host.Outcome State Fault Refusal}
    (hcd : d ↔ c) (hthen : c → AlikeOutcomes P x y) (helse : ¬c → AlikeOutcomes P x' y') :
    AlikeOutcomes P (if c then x else x') (if d then y else y') := by
  by_cases hc : c
  · rw [if_pos hc, if_pos (hcd.2 hc)]; exact hthen hc
  · rw [if_neg hc, if_neg (mt hcd.1 hc)]; exact helse hc

section
variable {s t : State} {P : Prop}

theorem SameControl.fsm_iff (h : SameControl s t) (p : Phase) : t.fsm = p ↔ s.fsm = p := by rw [h.fsm]

/-! ### Instructions -/

theorem SameControl.pushNibble (h : SameControl s t) (v : Nibble) : SameControl (s.pushNibble v) (t.pushNibble v) :=
  { h with decoded_length := by simp [State.pushNibble, h.decoded_length] }

theorem SameControl.sendCommand (h : SameControl s t) (b : Byte) : SameControl (s.sendCommand b) (t.sendCommand b) :=
  (h.latch b).issue .sendCmd rfl

theorem takeDigit_alike (h : SameControl s t) (v : Nibble) : AlikeOutcomes P (takeDigit v s) (takeDigit v t) :=
  .ite (h.fsm_iff _) (fun _ => .next (h.pushNibble v)) (fun _ => .next h)

theorem execWrite_alike (h : SameControl s t) : AlikeOutcomes P (execWrite s) (execWrite t) :=
  .ite (h.fsm_iff _)
    (fun _ => .ite (by rw [h.srcPresentIn, h.cfg]) (fun _ => .next (h.raise _)) (fun _ => .next (h.sendCommand _)))
    (fun _ => .next h)

theorem execDigInvalid_alike (h : SameControl s t) (ch : Byte) :
    AlikeOutcomes P (execDigInvalid ch s) (execDigInvalid ch t) := by
  unfold execDigInvalid
  refine .ite (h.fsm_iff _) (fun _ => ?_) (fun _ => .next h)
  rw [h.cfg]
  cases s.cfg.decodeMode with
  | permissive => exact .next (h.pushNibble _)
  | strict => exact .next (h.raise _)

/-- No instruction reads a byte beside its own operand, in either decode mode. -/
theorem exec_alike (h : SameControl s t) (i : Instr) : AlikeOutcomes P (exec i s) (exec i t) := by
  cases i with
  | read => exact .ite (h.fsm_iff _) (fun _ => .next (h.sendCommand _)) (fun _ => .next h)
  | write => exact execWrite_alike h
  | erase => exact .ite (h.fsm_iff _) (fun _ => .next ((h.latch _).enterDone _)) (fun _ => .next h)
  | unlock => exact .ite (h.fsm_iff _) (fun _ => .next (h.sendCommand _)) (fun _ => .next h)
  | cmdIllegal b => exact .ite (h.fsm_iff _) (fun _ => .next (h.raise _)) (fun _ => .next h)
  | hdrServe a =>
    exact .ite (h.fsm_iff _) (fun _ => .next ((h.setAddr a).issue .wrFetch (by rw [h.cfg]))) (fun _ => .next h)
  | hdrEnd a => exact .ite (h.fsm_iff _) (fun _ => .next ((h.setAddr a).enterDone _)) (fun _ => .next h)
  | digInvalid ch => exact execDigInvalid_alike h ch
  | _ => exact takeDigit_alike h _

/-! ### Answers -/

/-- Only a command that R142 does not list stops the machine here (log 13). -/
theorem dispatchCommand_alike (h : SameControl s t) (hP : P) :
    AlikeOutcomes P s.dispatchCommand t.dispatchCommand := by
  unfold State.dispatchCommand
  rw [h.cmd, h.cfg, h.srcPresent]
  have hread : SameControl s.enterReadSession t.enterReadSession := (h.setOffset _).issue _ (by rw [h.cfg])
  have hwrite : SameControl s.enterWriteSession t.enterWriteSession := h.issue _ rfl
  exact .ite .rfl (fun _ => .next hread) fun _ =>
    .ite .rfl (fun _ => .ite .rfl (fun _ => .next (h.raise _)) (fun _ => .next hwrite)) fun _ =>
    .ite .rfl (fun _ => .next (h.enterDone _)) (fun _ => .stop _ hP)

theorem commandByteAnswer_alike (h : SameControl s t) (hP : P) (a : TxAnswer) :
    AlikeOutcomes P (commandByteAnswer a s) (commandByteAnswer a t) := by
  unfold commandByteAnswer
  rw [h.cmd]
  exact .ite .rfl (fun _ => dispatchCommand_alike (h.deliver rfl) hP) (fun _ => .next ((h.deliver rfl).raise _))

/-- Digits of frames of one length. -/
theorem SameControl.decodeDigits (h : SameControl s t) {f g : List Byte} (hl : g.length = f.length) :
    SameControl { s with decoded := s.decoded ++ f.map decDigit } { t with decoded := t.decoded ++ g.map decDigit } :=
  { h with decoded_length := by simp [h.decoded_length, hl] }

/-- Under Permissive the characters of a frame do not matter, only how many there are. -/
theorem frameAnswer_alike (h : SameControl s t) (hs : s.fsm = .rdRecv) (hm : s.cfg.decodeMode = .permissive)
    (a : RxAnswer) : AlikeOutcomes P (frameAnswer a s) (frameAnswer a t) := by
  cases a with
  | err k =>
    simp only [frameAnswer, h.cfg]
    exact .next ((h.takeRx _ _).raise _)
  | group n =>
    have ht : t.fsm = .rdRecv := (h.fsm_iff _).2 hs
    have hl : (t.rxGroup t.cfg.frameMax n).length = (s.rxGroup s.cfg.frameMax n).length := by
      rw [h.cfg, h.length_rxGroup]
    have hrx : SameControl (s.takeRx s.cfg.frameMax n) (t.takeRx t.cfg.frameMax n) := by
      rw [h.cfg]; exact h.takeRx _ _
    rcases Nat.mod_two_eq_zero_or_one (s.rxGroup s.cfg.frameMax n).length with he | ho
    · rw [frameAnswer_even he, frameAnswer_even (by rw [hl, he]),
        decodeAndStore_admitted (s := s.takeRx s.cfg.frameMax n) hs (.inl hm),
        decodeAndStore_admitted (s := t.takeRx t.cfg.frameMax n) ht (.inl (h.cfg ▸ hm))]
      exact .next ((hrx.decodeDigits hl).storeFrame hl)
    · rw [frameAnswer_odd ho, frameAnswer_odd (by rw [hl, ho]), hl]
      exact .next (hrx.raise _)

/-- A header's group is cut from the next two bytes of the device. -/
theorem State.rxGroup_two (s : State) (n : Nat) : s.rxGroup 2 n = (s.env.rxStream.take 2).take n :=
  List.take_take.symm

/-- The header is a path to control (R64), so its two bytes agree. -/
theorem headerAnswer_alike (h : SameControl s t) (hd : t.env.rxStream.take 2 = s.env.rxStream.take 2)
    (a : RxAnswer) : AlikeOutcomes P (headerAnswer a s) (headerAnswer a t) := by
  cases a with
  | err k => exact .next ((h.takeRx 2 k).raise _)
  | group n =>
    have hg : t.rxGroup 2 n = s.rxGroup 2 n := by rw [State.rxGroup_two, State.rxGroup_two, hd]
    simp only [headerAnswer, h.cfg, hg]
    cases decodeAs s.cfg .hdr16 (s.rxGroup 2 n) with
    | ok i => exact exec_alike (h.takeRx 2 n) i
    | error e => exact .next ((h.takeRx 2 n).raise _)

theorem SameControl.nextOffset (h : SameControl s t) : t.nextOffset = s.nextOffset := by
  rw [State.nextOffset, State.nextOffset, h.offset, h.chunkLen]

theorem SameControl.storeAnswer (h : SameControl s t) (a : SinkAnswer) :
    SameControl (storeAnswer a s) (storeAnswer a t) := by
  cases a with
  | err k => exact (h.appendSink _ _).raise _
  | ok =>
    have happ := (h.appendSink s.chunkBytes t.chunkBytes).setOffset s.nextOffset
    rcases Nat.lt_or_ge s.nextOffset.toNat s.cfg.chipSize with hc | hc
    · rw [storeAnswer_loop hc, storeAnswer_loop (by rwa [h.nextOffset, h.cfg]), h.nextOffset, h.cfg]
      exact happ.issue _ rfl
    · rw [storeAnswer_done hc, storeAnswer_done (by rwa [h.nextOffset, h.cfg]), h.nextOffset]
      exact happ.enterDone _

theorem SameControl.sendAnswer (h : SameControl s t) (a : TxAnswer) :
    SameControl (sendAnswer a s) (sendAnswer a t) := by
  have hlen := h.length_frameBytes
  have hresp : a.response t.frameBytes = a.response s.frameBytes := a.response_congr hlen
  have hdel := h.deliver (a.length_delivered_congr hlen)
  by_cases hw : a.response s.frameBytes = .written s.cfg.frameMax
  · rw [sendAnswer_written hw, sendAnswer_written (by rw [hresp, hw, h.cfg])]
    exact hdel.issue _ rfl
  · rw [sendAnswer_short hw, sendAnswer_short (by rwa [hresp, h.cfg]), hresp]
    exact hdel.raise _

end

/-! ### Fetch -/

/-- What `MemRead(addr, BUFFER_SIZE)` returns in WR_FETCH (R184). -/
def State.fetched (s : State) : List Byte := s.readSource s.addr s.cfg.bufferSize

section
variable {s t : State} {fill : List Byte}

theorem fetchAnswer_filled (hf : s.fillBytes s.fetched.length = some fill) :
    fetchAnswer .data s = s.sendChunk (s.fetched ++ fill) (s.drawsFor s.fetched.length) := by
  simp only [State.fetched] at hf ⊢
  simp only [fetchAnswer, hf]

theorem fetchAnswer_unfilled (hf : s.fillBytes s.fetched.length = none) :
    fetchAnswer .data s = s.raise (.shortRead s.fetched.length) := by
  simp only [State.fetched] at hf ⊢
  simp only [fetchAnswer, hf]

/-- Only policy Fail leaves a chunk unfilled, and only past a short read. -/
theorem State.fillBytes_eq_none_iff (s : State) (k : Nat) :
    s.fillBytes k = none ↔ s.cfg.shortReadPolicy = .fail ∧ k < s.cfg.bufferSize := by
  unfold State.fillBytes
  cases s.cfg.shortReadPolicy <;> simp

/-- A filled chunk is whole under every policy. -/
theorem State.length_filled (hf : s.fillBytes s.fetched.length = some fill) :
    (s.fetched ++ fill).length = s.cfg.bufferSize := by
  have hle : s.fetched.length ≤ s.cfg.bufferSize := Memory.length_readRun_le _ _ _
  have hfill : fill.length = s.cfg.bufferSize - s.fetched.length := by
    unfold State.fillBytes at hf
    split at hf
    · cases hf; simp [drawnBytes]
    · cases hf; simp
    · split at hf <;> cases hf
      simp only [List.length_nil]
      omega
  rw [List.length_append, hfill]
  omega

/-- Under Fail, how much a fetch returns is control: it depends on the source's addresses alone. -/
theorem SameControl.length_fetched (h : SameControl s t) (hp : s.cfg.shortReadPolicy = .fail) :
    t.fetched.length = s.fetched.length := by
  simp only [State.fetched, State.readSource, h.addr, h.cfg]
  exact Memory.length_readRun_congr (h.source_addresses hp) _ _

theorem SameControl.fillBytes_eq_none (h : SameControl s t) :
    t.fillBytes t.fetched.length = none ↔ s.fillBytes s.fetched.length = none := by
  rw [State.fillBytes_eq_none_iff, State.fillBytes_eq_none_iff, h.cfg]
  exact and_congr_right fun hp => by rw [h.length_fetched hp]

theorem SameControl.fetchAnswer (h : SameControl s t) (a : SrcAnswer) :
    SameControl (fetchAnswer a s) (fetchAnswer a t) := by
  cases a with
  | err => exact h.raise _
  | data =>
    cases hs : s.fillBytes s.fetched.length with
    | none =>
      have ⟨hp, _⟩ := (s.fillBytes_eq_none_iff _).1 hs
      rw [fetchAnswer_unfilled hs, fetchAnswer_unfilled (h.fillBytes_eq_none.2 hs), h.length_fetched hp]
      exact h.raise _
    | some fill =>
      cases ht : t.fillBytes t.fetched.length with
      | none => simp [h.fillBytes_eq_none.1 ht] at hs
      | some fill' =>
        rw [fetchAnswer_filled hs, fetchAnswer_filled ht]
        exact h.sendChunk (by rw [State.length_filled ht, State.length_filled hs, h.cfg]) _ _

end

/-! ### Steps -/

section
variable {s t : State} (h : SameControl s t) (hm : s.cfg.decodeMode = .permissive)
  (hd : s.fsm = .wrHdr → t.env.rxStream.take 2 = s.env.rxStream.take 2)
include h hm hd

theorem react_alike {P : Prop} (hP : s.fsm = .sendCmd → P) (inp : Input) :
    AlikeOutcomes P (react inp s) (react inp t) := by
  cases inp with
  | reset k => exact .next (h.resetAction k)
  | start c sp =>
    exact .ite (h.fsm_iff _) (fun _ => exec_alike (h.present sp) _) (fun _ => .next (h.present sp))
  | tx a =>
    exact .ite (h.fsm_iff _) (fun hs => commandByteAnswer_alike h (hP hs) a) fun _ =>
      .ite (h.fsm_iff _) (fun _ => .next (h.sendAnswer a)) (fun _ => .next h)
  | rx a =>
    exact .ite (h.fsm_iff _) (fun hs => frameAnswer_alike h hs hm a) fun _ =>
      .ite (h.fsm_iff _) (fun hs => headerAnswer_alike h (hd hs) a) (fun _ => .next h)
  | sink a => exact .ite (h.fsm_iff _) (fun _ => .next (h.storeAnswer a)) (fun _ => .next h)
  | src a => exact .ite (h.fsm_iff _) (fun _ => .next (h.fetchAnswer a)) (fun _ => .next h)

theorem step_alike : AlikeOutcomes (s.fsm.isReserved = true ∨ s.fsm = .sendCmd) (step s) (step t) := by
  simp only [step, advance, h.inputs, h.fsm]
  cases s.env.inputs with
  | nil => exact .ite .rfl (fun hr => .stop _ (.inl hr)) (fun _ => .next h)
  | cons inp rest =>
    exact .ite .rfl (fun ⟨hr, _⟩ => .stop _ (.inl hr))
      (fun _ => react_alike (h.withInputs rest) hm hd .inr inp)

end

/-- Settles O54: `step_alike`. -/
theorem frameContentsNeverReachControl : Obligations.FrameContentsNeverReachControl :=
  fun _ _ h hm hd => (step_alike h hm hd).next_or_stop

/-! ### Runs of a Read session -/

/-- The phases of a Read session under way or ended (42_read_session.md). -/
def State.InReadSession (s : State) : Prop :=
  s.fsm = .rdRecv ∨ s.fsm = .rdStore ∨ s.fsm = .done ∨ s.fsm = .fault

/-- Only a reset leaves a Read session. -/
theorem Moves.inReadSession {s t : State} (hs : s.InReadSession) (m : Moves s t) : t.InReadSession := by
  cases m with
  | ignored | startIgnored => exact hs
  | commandRead | storeLoop => exact .inl rfl
  | frameStored => exact .inr (.inl rfl)
  | startErase | commandUnlock | storeDone | headerEnd => exact .inr (.inr (.inl rfl))
  | startFault | commandFault | frameFault | sinkFault | headerFault | fetchFault | sendFault =>
    exact .inr (.inr (.inr rfl))
  | startSent _ _ h | commandWrite _ h | headerServe _ _ h | fetchSent _ _ h | sendDone _ h =>
    simp [State.InReadSession, h] at hs

theorem Moves.inputs_eq {s t : State} (m : Moves s t) : t.env.inputs = s.env.inputs := by
  cases m <;> rfl

/-- Inputs are consumed one a step, oldest first; with none presented there is none to consume. -/
theorem step_inputs {s t : State} (h : step s = .next t) : t.env.inputs = s.env.inputs.tail := by
  rcases step_moves h with ⟨hi, rfl⟩ | ⟨k, rest, hi, rfl⟩ | ⟨inp, rest, hi, -, m⟩
  · rw [hi, List.tail_nil]
  · rw [hi, List.tail_cons]
    change ((s.withInputs rest).abandon k).env.inputs = rest
    unfold State.abandon
    split <;> rfl
  · rw [hi, List.tail_cons]
    exact m.inputs_eq

/-- No reset comes within the next `k` inputs. -/
def State.NoResetWithin (s : State) (k : Nat) : Prop := ∀ inp ∈ s.env.inputs.take k, inp.isReset = false

theorem State.NoResetWithin.nextIsReset {s : State} {k : Nat} (h : s.NoResetWithin (k + 1)) :
    s.nextIsReset = false := by
  cases hi : s.env.inputs with
  | nil => simp [State.nextIsReset, hi]
  | cons inp rest => simpa [State.nextIsReset, hi] using h inp (by simp [hi])

theorem State.NoResetWithin.of_step {s t : State} {k : Nat} (h : s.NoResetWithin (k + 1)) (hst : step s = .next t) :
    t.NoResetWithin k := by
  intro inp hinp
  rw [step_inputs hst] at hinp
  refine h inp ?_
  cases hi : s.env.inputs with
  | nil => simp [hi] at hinp
  | cons i rest => exact List.mem_cons_of_mem i (by simpa [hi] using hinp)

/-- A state of a Read session has no stop, and reads no header, in reach. -/
theorem State.InReadSession.step_alike {s t : State} (hs : s.InReadSession) (h : SameControl s t)
    (hm : s.cfg.decodeMode = .permissive) :
    ∃ s' t', step s = .next s' ∧ step t = .next t' ∧ SameControl s' t' := by
  have hhdr : s.fsm ≠ .wrHdr := fun hf => by simp [State.InReadSession, hf] at hs
  have hgo : ¬(s.fsm.isReserved = true ∨ s.fsm = .sendCmd) := by
    rcases hs with hf | hf | hf | hf <;> simp [hf, Phase.isReserved]
  exact (frameContentsNeverReachControl s t h hm fun hf => absurd hf hhdr).resolve_right fun ⟨hstop, _⟩ => hgo hstop

/-- Settles O57, by induction on the length of the run: a step keeps all that the next one needs. -/
theorem readSessionsStayAlikeInControl : Obligations.ReadSessionsStayAlikeInControl := by
  intro k
  induction k with
  | zero => exact fun s t h _ _ _ => ⟨s, t, run_zero s, run_zero t, h⟩
  | succ k ih =>
    intro s t h hm hs hreset
    have hno : s.NoResetWithin (k + 1) := hreset
    obtain ⟨u, v, hu, hv, huv⟩ := State.InReadSession.step_alike hs h hm
    obtain ⟨rest, m⟩ := step_move hu hno.nextIsReset
    have hsession : (s.withInputs rest).InReadSession := hs
    have ⟨hcfg, _⟩ := parametersAndSourceAreFixed s u hu
    obtain ⟨s', t', hs', ht', h'⟩ := ih u v huv (hcfg ▸ hm) (m.inReadSession hsession) (hno.of_step hu)
    exact ⟨s', t', (run_next k hu).trans hs', (run_next k hv).trans ht', h'⟩

end Sys2Proof.Machine

/-! PROOFS. Encoding (30_encoding.md): the decoder and the encoder invert each other, and the decoder
refuses no byte value. The idea: the decoder has one equation per format and one inversion lemma (`decodeAs_ok_iff`), so
a statement about it is one about each format's table. -/

namespace Sys2Proof

open Sys2Proof.Machine

/-! ### The command table (R81) -/

theorem decodeCmd_of_notACommand {b : Byte} (h : NotACommand b) : decodeCmd b = .cmdIllegal b := by
  obtain ⟨hR, hW, hE, hU⟩ := h
  rw [decodeCmd, if_neg hR, if_neg hW, if_neg hE, if_neg hU]

/-! ### The digit table (R86) -/

theorem isDigit_eq_false_iff (ch : Byte) : isDigit ch = false ↔ NotADigit ch := by
  simp only [isDigit, Bool.or_eq_false_iff, ← Bool.decide_and, decide_eq_false_iff_not]

theorem decodeDigit_of_notADigit {ch : Byte} (h : NotADigit ch) : decodeDigit ch = .digInvalid ch :=
  decodeDigit_invalid ch ((isDigit_eq_false_iff ch).2 h)

/-! ### Header values (R56, R87) -/

theorem high_append_low (a : Half) : (a >>> 8).setWidth 8 ++ a.setWidth 8 = a := by
  rw [BitVec.setWidth_ushiftRight_eq_extractLsb, BitVec.setWidth_eq_extractLsb' (by decide),
    BitVec.extractLsb'_append_extractLsb'_eq_extractLsb' (Nat.zero_add 8).symm, BitVec.extractLsb'_eq_self]

theorem low_of_append (hi lo : Byte) : (hi ++ lo : Half).setWidth 8 = lo := by
  rw [BitVec.setWidth_eq_extractLsb' (by decide), BitVec.extractLsb'_append_eq_right]

theorem high_of_append (hi lo : Byte) : ((hi ++ lo : Half) >>> 8).setWidth 8 = hi := by
  rw [BitVec.setWidth_ushiftRight_eq_extractLsb, BitVec.extractLsb'_append_eq_left]

/-- The bytes of an assembled header are the two it was assembled from, in either byte order. -/
theorem splitHeader_assembleHeader (o : AddrOrder) (h0 h1 : Byte) :
    splitHeader o (assembleHeader o h0 h1) = [h0, h1] := by
  cases o <;> simp only [splitHeader, assembleHeader, low_of_append, high_of_append]

theorem classifyHeader_of_lt {p : Params} {a : Half} (h : a.toNat < p.chipSize) : classifyHeader p a = .hdrServe a :=
  if_pos h

theorem classifyHeader_of_le {p : Params} {a : Half} (h : p.chipSize ≤ a.toNat) : classifyHeader p a = .hdrEnd a :=
  if_neg (not_lt.2 h)

/-! ### The decoder -/

section
variable (p : Params)

theorem decodeAs_cmd8 (b : Byte) : decodeAs p .cmd8 [b] = .ok (decodeCmd b) := rfl

theorem decodeAs_hdr16 (h0 h1 : Byte) :
    decodeAs p .hdr16 [h0, h1] = .ok (classifyHeader p (assembleHeader p.addrOrder h0 h1)) := rfl

theorem decodeAs_hex8 (ch : Byte) : decodeAs p .hex8 [ch] = .ok (decodeDigit ch) := rfl

/-- The two bytes of a header value, in the order of ADDR_ORDER, are read as that value. -/
theorem decodeAs_splitHeader (a : Half) :
    decodeAs p .hdr16 (splitHeader p.addrOrder a) = .ok (classifyHeader p a) := by
  cases ho : p.addrOrder <;>
    simp only [splitHeader, decodeAs_hdr16, ho, assembleHeader, high_append_low]

end

/-- What the decoder reads, and from which bytes: one case per format. -/
theorem decodeAs_ok_iff {p : Params} {f : Format} {bs : List Byte} {i : Instr} :
    decodeAs p f bs = .ok i ↔
      (∃ b, f = .cmd8 ∧ bs = [b] ∧ i = decodeCmd b) ∨
      (∃ h0 h1, f = .hdr16 ∧ bs = [h0, h1] ∧ i = classifyHeader p (assembleHeader p.addrOrder h0 h1)) ∨
      (∃ ch, f = .hex8 ∧ bs = [ch] ∧ i = decodeDigit ch) := by
  constructor
  · intro h
    unfold decodeAs at h
    split at h
    · next b => cases h; exact .inl ⟨b, rfl, rfl, rfl⟩
    · next h0 h1 => cases h; exact .inr (.inl ⟨h0, h1, rfl, rfl, rfl⟩)
    · next ch => cases h; exact .inr (.inr ⟨ch, rfl, rfl, rfl⟩)
    · cases h
  · rintro (⟨b, rfl, rfl, rfl⟩ | ⟨h0, h1, rfl, rfl, rfl⟩ | ⟨ch, rfl, rfl, rfl⟩) <;> rfl

/-- `i` is a well-formed instruction of format `f`, and `bs` is how it is written. -/
def WrittenAs (p : Params) (f : Format) (bs : List Byte) (i : Instr) : Prop :=
  i.wf p = true ∧ i.format = f ∧ encode p i = bs

theorem decodeCmd_writtenAs (p : Params) (b : Byte) : WrittenAs p .cmd8 [b] (decodeCmd b) := by
  by_cases h : NotACommand b
  · rw [decodeCmd_of_notACommand h]
    exact ⟨decide_eq_true h, rfl, rfl⟩
  · have hb : b = 0x52#8 ∨ b = 0x57#8 ∨ b = 0x45#8 ∨ b = 0x55#8 := by
      simpa only [NotACommand, not_and_or, not_not] using h
    rcases hb with rfl | rfl | rfl | rfl <;> exact ⟨rfl, rfl, rfl⟩

theorem classifyHeader_writtenAs (p : Params) (h0 h1 : Byte) :
    WrittenAs p .hdr16 [h0, h1] (classifyHeader p (assembleHeader p.addrOrder h0 h1)) := by
  have hsplit := splitHeader_assembleHeader p.addrOrder h0 h1
  rcases lt_or_ge (assembleHeader p.addrOrder h0 h1).toNat p.chipSize with h | h
  · rw [classifyHeader_of_lt h]
    exact ⟨decide_eq_true h, rfl, hsplit⟩
  · rw [classifyHeader_of_le h]
    exact ⟨decide_eq_true h, rfl, hsplit⟩

theorem decodeDigit_writtenAs (p : Params) (ch : Byte) : WrittenAs p .hex8 [ch] (decodeDigit ch) := by
  cases hd : isDigit ch with
  | false =>
    rw [decodeDigit_invalid ch hd]
    exact ⟨decide_eq_true ((isDigit_eq_false_iff ch).1 hd), rfl, rfl⟩
  | true =>
    have hm := isDigit_mem ch hd
    simp only [List.mem_cons, List.not_mem_nil, or_false] at hm
    rcases hm with rfl | rfl | rfl | rfl | rfl | rfl | rfl | rfl | rfl | rfl | rfl | rfl | rfl | rfl | rfl | rfl <;>
      exact ⟨rfl, rfl, rfl⟩

/-- Settles O2, row by row: an exact row's byte is in its table, and a row with an operand is read back because the
operand's well-formedness is the guard of that row. -/
theorem decodeOfEncodeIsIdentity : Obligations.DecodeOfEncodeIsIdentity := by
  intro p i hwf
  cases i with
  | cmdIllegal b => rw [Instr.format, encode, decodeAs_cmd8, decodeCmd_of_notACommand (of_decide_eq_true hwf)]
  | hdrServe a => rw [Instr.format, encode, decodeAs_splitHeader, classifyHeader_of_lt (of_decide_eq_true hwf)]
  | hdrEnd a => rw [Instr.format, encode, decodeAs_splitHeader, classifyHeader_of_le (of_decide_eq_true hwf)]
  | digInvalid ch => rw [Instr.format, encode, decodeAs_hex8, decodeDigit_of_notADigit (of_decide_eq_true hwf)]
  | _ => rfl

/-- Settles O3: each format's table reads only instructions that are written as the bytes read. -/
theorem encodeOfDecodeIsIdentity : Obligations.EncodeOfDecodeIsIdentity := by
  intro p f bs i h
  rcases decodeAs_ok_iff.1 h with ⟨b, rfl, rfl, rfl⟩ | ⟨h0, h1, rfl, rfl, rfl⟩ | ⟨ch, rfl, rfl, rfl⟩
  · exact decodeCmd_writtenAs p b
  · exact classifyHeader_writtenAs p h0 h1
  · exact decodeDigit_writtenAs p ch

/-- Settles O1, by evaluating the decoder. -/
theorem writtenOutWordsDecode : Obligations.WrittenOutWordsDecode :=
  ⟨rfl, rfl, rfl, rfl, rfl, rfl, rfl⟩

/-- Settles O4: each format's equation covers every list of its length, and no other list is read. -/
theorem decoderRefusesOnlyWrongLengths : Obligations.DecoderRefusesOnlyWrongLengths := by
  intro p f bs
  constructor
  · rintro ⟨i, h⟩
    rcases decodeAs_ok_iff.1 h with ⟨b, rfl, rfl, -⟩ | ⟨h0, h1, rfl, rfl, -⟩ | ⟨ch, rfl, rfl, -⟩ <;> rfl
  · intro hl
    cases f with
    | cmd8 => obtain ⟨b, rfl⟩ := List.length_eq_one_iff.1 hl; exact ⟨_, decodeAs_cmd8 p b⟩
    | hdr16 => obtain ⟨h0, h1, rfl⟩ := List.length_eq_two.1 hl; exact ⟨_, decodeAs_hdr16 p h0 h1⟩
    | hex8 => obtain ⟨ch, rfl⟩ := List.length_eq_one_iff.1 hl; exact ⟨_, decodeAs_hex8 p ch⟩

end Sys2Proof

/-! PROOFS. What the instructions of the command port and of a frame do in the state that reads them, and that a step
runs what the decoder read. -/

namespace Sys2Proof.Machine

/-- An instruction that leaves the environment alone leaves both byte stores alone. -/
theorem State.SameBytes.of_env_eq {s t : State} (h : t.env = s.env) : s.SameBytes t :=
  ⟨fun a => by rw [h], fun a => by rw [h]⟩

/-! ### Commands in IDLE -/

/-- Settles O10: both are `State.sendCommand` of their byte. -/
theorem readAndUnlockSendTheirByte : Obligations.ReadAndUnlockSendTheirByte := fun s hs =>
  ⟨⟨s.sendCommand 0x52#8, execRead_idle hs, rfl, .of_env_eq (s.sendCommand_env _)⟩,
    ⟨s.sendCommand 0x55#8, execUnlock_idle hs, rfl, .of_env_eq (s.sendCommand_env _)⟩⟩

/-- Settles O11: the source check passes. -/
theorem writeSendsItsByte : Obligations.WriteSendsItsByte := fun s hs hp =>
  ⟨s.sendCommand 0x57#8, execWrite_idle hs hp, rfl, .of_env_eq (s.sendCommand_env _)⟩

/-- Settles O14: the fault entry, from the state before any latch. -/
theorem illegalCommandFaults : Obligations.IllegalCommandFaults := fun b s hs =>
  ⟨s.raise (.illegalCommand b), execCmdIllegal_idle hs b, rfl, .of_env_eq (s.raise_env _)⟩

/-! ### Characters in RD_RECV -/

/-- The sixteen digit instructions and their values (R115). -/
def digitValues : List (Instr × Nibble) :=
  [(.dig0, 0x0#4), (.dig1, 0x1#4), (.dig2, 0x2#4), (.dig3, 0x3#4), (.dig4, 0x4#4), (.dig5, 0x5#4), (.dig6, 0x6#4),
    (.dig7, 0x7#4), (.dig8, 0x8#4), (.dig9, 0x9#4), (.digA, 0xA#4), (.digB, 0xB#4), (.digC, 0xC#4), (.digD, 0xD#4),
    (.digE, 0xE#4), (.digF, 0xF#4)]

theorem exec_eq_takeDigit {p : Instr × Nibble} (hp : p ∈ digitValues) (s : State) : exec p.1 s = takeDigit p.2 s := by
  simp only [digitValues, List.mem_cons, List.not_mem_nil, or_false] at hp
  rcases hp with rfl | rfl | rfl | rfl | rfl | rfl | rfl | rfl | rfl | rfl | rfl | rfl | rfl | rfl | rfl | rfl <;> rfl

/-- Settles O17: each is `takeDigit` of its value. -/
theorem digitsYieldTheirNibble : Obligations.DigitsYieldTheirNibble := fun s hs p hp =>
  ⟨s.pushNibble p.2, (exec_eq_takeDigit hp s).trans (takeDigit_rdRecv hs p.2), rfl, .of_env_eq (s.pushNibble_env _)⟩

/-- Settles O18, by the decode mode. -/
theorem invalidDigitCompletes : Obligations.InvalidDigitCompletes := fun ch s hs =>
  ⟨fun hm => ⟨s.pushNibble 0x0#4, execDigInvalid_permissive hs hm ch, rfl, .of_env_eq (s.pushNibble_env _)⟩,
    fun hm => ⟨s.raise .badHexDigit, execDigInvalid_strict hs hm ch, rfl, .of_env_eq (s.raise_env _)⟩⟩

/-- `'0'` to `'9'` have the values 0 to 9 (R115). -/
theorem toNat_decDigit_decimal {ch : Byte} (h : 0x30 ≤ ch.toNat ∧ ch.toNat ≤ 0x39) :
    (decDigit ch).toNat = ch.toNat - 0x30 := by
  rw [decDigit, if_pos h, BitVec.toNat_ofNat]
  omega

/-- `'A'` to `'F'` have the values 10 to 15 (R115). -/
theorem toNat_decDigit_letter {ch : Byte} (h : 0x41 ≤ ch.toNat ∧ ch.toNat ≤ 0x46) :
    (decDigit ch).toNat = ch.toNat - 0x41 + 10 := by
  rw [decDigit, if_neg (by omega), if_pos h, BitVec.toNat_ofNat]
  omega

/-- Settles O9: the nibble is the codec's `decDigit`. -/
theorem characterYieldsItsDigitValue : Obligations.CharacterYieldsItsDigitValue := by
  intro ch s hs hm
  refine ⟨decDigit ch, exec_decodeDigit hs ch (.inl hm), toNat_decDigit_decimal, toNat_decDigit_letter, ?_⟩
  intro hdecimal hletter
  rw [decDigit_of_not_digit ch ((isDigit_eq_false_iff ch).2 ⟨hdecimal, hletter⟩)]
  rfl

/-! ### A step runs what was decoded -/

/-- Settles O19: one byte is read as its row of the command table. -/
theorem stepRunsStartedCommand : Obligations.StepRunsStartedCommand := by
  intro s c sp rest i hs hi hd
  cases (decodeAs_cmd8 s.cfg c).symm.trans hd
  exact step_start hs hi

/-- A group of two or more bytes for a two-byte request is the next two. -/
theorem State.rxGroup_two_of_cons {s : State} {h0 h1 : Byte} {more : List Byte}
    (hst : s.env.rxStream = h0 :: h1 :: more) {n : Nat} (hn : 2 ≤ n) : s.rxGroup 2 n = [h0, h1] := by
  simp [State.rxGroup, hst, Nat.min_eq_right hn]

theorem State.takeRx_two_of_cons {s : State} {h0 h1 : Byte} {more : List Byte}
    (hst : s.env.rxStream = h0 :: h1 :: more) {n : Nat} (hn : 2 ≤ n) :
    s.takeRx 2 n = { s with env := { s.env with rxStream := more } } := by
  simp [State.takeRx, hst, Nat.min_eq_right hn]

/-- Settles O20: the group of the request is the two bytes, and they are consumed. -/
theorem stepRunsReceivedHeader : Obligations.StepRunsReceivedHeader := by
  intro s n h0 h1 more rest i hs hi hn hst hd
  cases (decodeAs_hdr16 s.cfg h0 h1).symm.trans hd
  have hrest : (s.withInputs rest).env.rxStream = h0 :: h1 :: more := hst
  rw [step_rx_wrHdr hs hi, headerAnswer_two (State.rxGroup_two_of_cons hrest hn), State.takeRx_two_of_cons hrest hn]
  rfl

/-- The instructions of a frame's characters run to `t` exactly when the frame does. -/
theorem runs_map_decodeDigit_iff (g : List Byte) (s t : State) :
    Runs (g.map decodeDigit) s t ↔ execFrame g s = .next t := by
  induction g generalizing s with
  | nil => simp [Runs, execFrame, eq_comm]
  | cons ch g ih =>
    obtain ⟨u, hu⟩ := exec_next (decodeDigit ch) s
    simp [Runs, execFrame, hu, ih]

/-- The characters that are decoded one by one are decoded by the digit table. -/
theorem eq_map_decodeDigit {p : Params} {g : List Byte} {is : List Instr}
    (h : g.map (fun ch => decodeAs p .hex8 [ch]) = is.map Except.ok) : is = g.map decodeDigit := by
  have hok : (g.map decodeDigit).map (Except.ok (ε := DecodeReject)) = is.map Except.ok := by
    simpa only [decodeAs_hex8, List.map_map, Function.comp_def] using h
  exact (List.map_injective_iff.2 (fun _ _ => Except.ok.inj) hok).symm

/-- A frame that the mode admits is stored in the state its characters lead to. -/
theorem decodeAndStore_of_execFrame {g : List Byte} {s t : State}
    (hm : s.cfg.decodeMode = .permissive ∨ frameDigitsOk g = true) (h : execFrame g s = .next t) :
    decodeAndStore g s = .next (t.storeFrame g) := by
  rw [decodeAndStore, if_neg, h]
  rintro ⟨hstrict, hbad⟩
  simp [hstrict, hbad] at hm

/-- Settles O21: the characters' instructions run as the frame does, and the frame is admitted. -/
theorem stepRunsFrameCharacters : Obligations.StepRunsFrameCharacters := by
  intro s t n g rest is hs hi hg heven hm hd hrun
  subst hg
  obtain rfl := eq_map_decodeDigit hd
  have hframe := (runs_map_decodeDigit_iff _ _ t).1 hrun
  rw [step_rx_rdRecv hs hi, frameAnswer_even (s := s.withInputs rest) heven]
  exact decodeAndStore_of_execFrame (s := (s.withInputs rest).takeRx s.cfg.frameMax n) hm hframe

end Sys2Proof.Machine

/-! PROOFS. The hex codec (40_hex_codec.md) and the frame a Write round sends. The idea: a frame's characters are read one
by one (`decDigit`), and what encoding the nibble read gives back is the character with `'0'` for a non-digit
(`zeroFill`); `packNibbles` and `encodeChunk` invert each other on nibbles, so every law of whole frames comes down to
one of single characters. -/

namespace Sys2Proof.Machine

/-! ### One character, one nibble, one byte -/

/-- The two digit ranges (R111). -/
theorem isDigit_iff (ch : Byte) : isDigit ch = true ↔
    (0x30 ≤ ch.toNat ∧ ch.toNat ≤ 0x39) ∨ (0x41 ≤ ch.toNat ∧ ch.toNat ≤ 0x46) := by
  simp [isDigit]

/-- The encoder's value (R112): no sum leaves a byte. -/
theorem toNat_encNib (v : Nibble) :
    (encNib v).toNat = if v.toNat ≤ 9 then 0x30 + v.toNat else 0x41 + (v.toNat - 10) := by
  unfold encNib
  split <;> rw [BitVec.toNat_ofNat] <;> omega

/-- The decoder's value (R115), by the range the character is in. -/
theorem toNat_decDigit (ch : Byte) : (decDigit ch).toNat =
    if 0x30 ≤ ch.toNat ∧ ch.toNat ≤ 0x39 then ch.toNat - 0x30
    else if 0x41 ≤ ch.toNat ∧ ch.toNat ≤ 0x46 then ch.toNat - 0x41 + 10
    else 0 := by
  split_ifs with hdecimal hletter
  · exact toNat_decDigit_decimal hdecimal
  · exact toNat_decDigit_letter hletter
  · rw [decDigit_of_not_digit ch ((isDigit_eq_false_iff ch).2 ⟨hdecimal, hletter⟩)]
    rfl

/-- The low nibble fills the four bits the shift has freed, so the disjunction of R116 is a sum. -/
theorem toNat_joinNibbles (hi lo : Nibble) : (joinNibbles hi lo).toNat = 16 * hi.toNat + lo.toNat := by
  have hhi : (hi.setWidth 8 <<< 4).toNat = hi.toNat <<< 4 := by
    rw [BitVec.toNat_shiftLeft, BitVec.toNat_setWidth_of_le (by decide), Nat.shiftLeft_eq]
    omega
  rw [joinNibbles, BitVec.toNat_or, hhi, BitVec.toNat_setWidth_of_le (by decide),
    ← Nat.shiftLeft_add_eq_or_of_lt lo.isLt, Nat.shiftLeft_eq]
  omega

theorem encNib_injective : Function.Injective encNib := Function.LeftInverse.injective decDigit_encNib

/-- The character as R120 gives it back: itself if it is a digit, else `'0'`. -/
def zeroFill (ch : Byte) : Byte := if isDigit ch = true then ch else 0x30#8

/-- What encoding a decoded character gives back. -/
theorem encNib_comp_decDigit : encNib ∘ decDigit = zeroFill := by
  funext ch
  unfold zeroFill
  split
  · next h => exact encNib_decDigit ch h
  · next h =>
    rw [Function.comp_apply, decDigit_of_not_digit ch (Bool.eq_false_of_not_eq_true h)]
    rfl

theorem decDigit_comp_zeroFill : decDigit ∘ zeroFill = decDigit := by
  funext ch
  rw [← encNib_comp_decDigit]
  exact decDigit_encNib (decDigit ch)

theorem zeroFill_eq_self_iff (ch : Byte) : zeroFill ch = ch ↔ isDigit ch = true := by
  refine ⟨fun h => ?_, fun h => if_pos h⟩
  rw [← h, ← encNib_comp_decDigit]
  exact isDigit_encNib (decDigit ch)

/-! ### Whole frames and chunks -/

/-- An even-length frame decodes to its packed nibbles, and no other frame decodes (R117). -/
theorem decodeFrame_eq_some_iff {f c : List Byte} :
    decodeFrame f = some c ↔ f.length % 2 = 0 ∧ packNibbles (f.map decDigit) = c := by
  rcases Nat.mod_two_eq_zero_or_one f.length with heven | hodd
  · simp [decodeFrame_eq_pack f heven, heven]
  · simp [decodeFrame_odd f hodd, hodd]

/-- Encoding a chunk packed from nibbles writes each nibble's digit. -/
theorem encodeChunk_packNibbles : ∀ vs : List Nibble, vs.length % 2 = 0 → encodeChunk (packNibbles vs) = vs.map encNib
  | [], _ => rfl
  | [_], h => by simp at h
  | hi :: lo :: vs, h => by
    have ih := encodeChunk_packNibbles vs (by simpa [Nat.add_assoc] using h)
    simp [packNibbles, encByte, high_joinNibbles, low_joinNibbles, ih]

/-- Packing the nibbles read from an encoded chunk gives the chunk. -/
theorem packNibbles_encodeChunk (c : List Byte) : packNibbles ((encodeChunk c).map decDigit) = c := by
  induction c with
  | nil => rfl
  | cons b c ih => simp [encByte, packNibbles, decDigit_encNib, joinNibbles_split, ih]

/-- The round trip (R119.1). -/
theorem decodeFrame_encodeChunk (c : List Byte) : decodeFrame (encodeChunk c) = some c :=
  decodeFrame_eq_some_iff.2 ⟨by simp, packNibbles_encodeChunk c⟩

theorem frameDigitsOk_cons (ch : Byte) (f : List Byte) : frameDigitsOk (ch :: f) = (isDigit ch && frameDigitsOk f) := rfl

/-- An encoded chunk has only digits (R114). -/
theorem frameDigitsOk_encodeChunk (c : List Byte) : frameDigitsOk (encodeChunk c) = true := by
  induction c with
  | nil => rfl
  | cons b c ih => simp [encByte, frameDigitsOk_cons, isDigit_encNib, ih]

theorem length_of_decodeFrame {f c : List Byte} (h : decodeFrame f = some c) : c.length = f.length / 2 := by
  obtain ⟨-, rfl⟩ := decodeFrame_eq_some_iff.1 h
  rw [length_packNibbles, List.length_map]

/-- Byte `i` is packed from nibbles `2i` and `2i+1` (R119.3). -/
theorem getElem?_packNibbles {hi lo : Nibble} : ∀ (vs : List Nibble) (i : Nat), vs[2 * i]? = some hi →
    vs[2 * i + 1]? = some lo → (packNibbles vs)[i]? = some (joinNibbles hi lo)
  | [], _, h, _ => by simp at h
  | [_], _, _, h => by simp at h
  | _ :: _ :: _, 0, hhi, hlo => by
    cases hhi
    cases hlo
    rfl
  | _ :: _ :: vs, i + 1, hhi, hlo => getElem?_packNibbles vs i hhi hlo

/-- Characters `2i` and `2i+1` are the digits of byte `i`, and there are none past the last byte (R119.3). -/
theorem getElem?_encodeChunk (bs : List Byte) (i : Nat) :
    (encodeChunk bs)[2 * i]? = bs[i]?.map (fun b => encNib (b.extractLsb' 4 4)) ∧
    (encodeChunk bs)[2 * i + 1]? = bs[i]?.map (fun b => encNib (b.extractLsb' 0 4)) := by
  induction bs generalizing i with
  | nil => simp
  | cons b bs ih =>
    cases i with
    | zero => exact ⟨rfl, rfl⟩
    | succ i => exact ih i

/-- A frame is as R120 gives it back exactly when all its characters are digits (R118). -/
theorem map_zeroFill_eq_self_iff (f : List Byte) : f.map zeroFill = f ↔ frameDigitsOk f = true := by
  induction f with
  | nil => simp [frameDigitsOk]
  | cons ch f ih => simp [frameDigitsOk_cons, zeroFill_eq_self_iff, ih]

/-- What encoding a decoded frame gives back (R120). -/
theorem encodeChunk_of_decodeFrame {f c : List Byte} (h : decodeFrame f = some c) : encodeChunk c = f.map zeroFill := by
  obtain ⟨heven, rfl⟩ := decodeFrame_eq_some_iff.1 h
  rw [encodeChunk_packNibbles _ (by rw [List.length_map, heven]), List.map_map, encNib_comp_decDigit]

/-- Decoding does not tell a non-digit from `'0'` (R120). -/
theorem decodeFrame_map_zeroFill {f c : List Byte} (h : decodeFrame f = some c) : decodeFrame (f.map zeroFill) = some c := by
  rw [← encodeChunk_of_decodeFrame h, decodeFrame_encodeChunk]

/-- Settles O6, function by function. -/
theorem codecFunctionsOnEveryOperand : Obligations.CodecFunctionsOnEveryOperand :=
  ⟨isDigit_iff, toNat_encNib, toNat_decDigit, fun hi lo => toNat_joinNibbles (decDigit hi) (decDigit lo)⟩

/-- Settles O7: the pointwise laws are those of packing and of encoding. -/
theorem codecLaws : Obligations.CodecLaws := by
  refine ⟨decodeFrame_encodeChunk, length_encodeChunk, fun f c => length_of_decodeFrame, ?decoded, ?encoded,
    fun v w hvw => encNib_injective hvw, decDigit_encNib⟩
  case decoded =>
    intro f out i hi lo h hhi hlo
    obtain ⟨-, rfl⟩ := decodeFrame_eq_some_iff.1 h
    exact getElem?_packNibbles _ i (by simp [hhi]) (by simp [hlo])
  case encoded =>
    intro b i x hx
    simpa only [hx, Option.map_some] using getElem?_encodeChunk b i

/-- Settles O8: what encoding gives back is the frame with `zeroFill` applied to each character. -/
theorem reverseLaw : Obligations.ReverseLaw := by
  intro f heven
  have h := decodeFrame_eq_pack f heven
  have hencode := encodeChunk_of_decodeFrame h
  exact ⟨_, h, hencode, hencode ▸ map_zeroFill_eq_self_iff f, decodeFrame_map_zeroFill h⟩

/-! ### The frame of a Write round -/

/-- A chunk of BUFFER_SIZE bytes is sent as one whole frame (R6, R185). -/
theorem length_encodeChunk_eq_frameMax {p : Params} {c : List Byte} (hc : c.length = p.bufferSize) :
    (encodeChunk c).length = p.frameMax := by
  rw [length_encodeChunk, hc, Params.frameMax]

/-- What `sendChunk` asks the device to take is the whole frame of a chunk of BUFFER_SIZE bytes. -/
theorem State.outstanding_sendChunk {s : State} {c : List Byte} (hc : c.length = s.cfg.bufferSize) (n : Nat) :
    (s.sendChunk c n).outstanding = some (.txSend (encodeChunk c)) := by
  have hwhole : (s.sendChunk c n).frameBytes = encodeChunk c :=
    List.take_of_length_le (length_encodeChunk_eq_frameMax hc).le
  rw [State.outstanding_wrSend (s.sendChunk_fsm c n), hwhole]

/-- Only a fetched chunk leads into WR_SEND, and it is whole under every policy (R184). -/
theorem Moves.enters_wrSend {s t : State} (m : Moves s t) (hs : s.fsm ≠ .wrSend) (ht : t.fsm = .wrSend) :
    ∃ c n, c.length = s.cfg.bufferSize ∧ t = s.sendChunk c n := by
  cases m with
  | ignored | startIgnored => exact absurd ht hs
  | fetchSent c n _ hc => exact ⟨c, n, hc, rfl⟩
  | _ => cases ht

/-- Settles O30: the step sends a whole chunk, and the laws of `encodeChunk` say the rest. -/
theorem sentFrameIsWholeAndDecodes : Obligations.SentFrameIsWholeAndDecodes := by
  intro s t hs h ht
  rcases step_reset_or_move h with ⟨k, rest, -, rfl⟩ | ⟨rest, m⟩
  · cases ht
  · have hfetch : (s.withInputs rest).fsm ≠ .wrSend := ne_of_eq_of_ne hs (by decide)
    obtain ⟨c, n, hc, rfl⟩ := m.enters_wrSend hfetch ht
    exact ⟨length_encodeChunk_eq_frameMax hc, frameDigitsOk_encodeChunk c, decodeFrame_encodeChunk c,
      State.outstanding_sendChunk hc n⟩

end Sys2Proof.Machine

/-! PROOFS. The dispatcher (41_dispatcher.md): what `start` does in IDLE and nowhere else, and what the answer to the
command byte does. The idea: `step_start` and `step_tx_sendCmd` make each step one instruction or one answer, whose
equations stand in the layer of the transitions; in IDLE an input other than `start` and reset is an answer to no
request. -/

namespace Sys2Proof.Machine

/-! ### Commands that send nothing, and commands outside IDLE -/

/-- Settles O12: the fault entry, from the state before the latch. -/
theorem writeWithoutSourceFaults : Obligations.WriteWithoutSourceFaults := fun s hs hsrc hcheck =>
  ⟨s.raise .missingInput, execWrite_missing hs hsrc hcheck, rfl, .of_env_eq (s.raise_env _)⟩

/-- Settles O13: the normal end, from the latched state. -/
theorem eraseEndsNotImplemented : Obligations.EraseEndsNotImplemented := fun s hs =>
  ⟨(s.latch 0x45#8).enterDone .notImplemented, execErase_idle hs, rfl, .of_env_eq rfl⟩

/-- Every command is read in IDLE only (R147). -/
theorem exec_command_ignored {s : State} (hs : s.fsm ≠ .idle) {i : Instr} (hi : i.format = .cmd8) :
    exec i s = .next s := by
  cases i with
  | read | write | erase | unlock | cmdIllegal => exact if_neg hs
  | _ => cases hi

/-- Settles O15: `exec_command_ignored`, and `react` only drives the line. -/
theorem commandsIgnoredOutsideIdle : Obligations.CommandsIgnoredOutsideIdle := fun s hs =>
  ⟨fun _ => exec_command_ignored hs,
    fun c sp rest hr hi => (step_input hr hi).trans (react_start_ignored (s := s.withInputs rest) hs c sp)⟩

/-! ### The start transition (R141) -/

/-- A step that leaves IDLE has consumed a `start`: the block stays there when it waits, is reset, or is given an
answer, since it has no request out. -/
theorem start_of_leaves_idle {s t : State} (hs : s.fsm = .idle) (h : step s = .next t) (ht : t.fsm ≠ .idle) :
    ∃ c sp rest, s.env.inputs = .start c sp :: rest := by
  have hlegal := not_reserved hs rfl
  have hleaves : ∀ {u : State}, u.fsm = .idle → step s ≠ .next u := by
    intro u hu hstep
    cases hstep.symm.trans h
    exact ht hu
  have hne : ∀ p : Phase, p ≠ .idle → s.fsm ≠ p := fun p hp => hs ▸ hp.symm
  cases hi : s.env.inputs with
  | nil => exact absurd (step_wait hlegal hi) (hleaves hs)
  | cons inp rest =>
    obtain ⟨htx, hrx, hsink, hsrc⟩ := answersToNoRequestAreDropped s rest hlegal
    cases inp with
    | start c sp => exact ⟨c, sp, rest, rfl⟩
    | reset k => exact absurd (step_reset hi) (hleaves rfl)
    | tx a => exact absurd (htx a hi (hne _ (by decide)) (hne _ (by decide))) (hleaves hs)
    | rx a => exact absurd (hrx a hi (hne _ (by decide)) (hne _ (by decide))) (hleaves hs)
    | sink a => exact absurd (hsink a hi (hne _ (by decide))) (hleaves hs)
    | src a => exact absurd (hsrc a hi (hne _ (by decide))) (hleaves hs)

theorem step_start_unlock {s : State} {sp : Bool} {rest : List Input} (hs : s.fsm = .idle)
    (hi : s.env.inputs = .start 0x55#8 sp :: rest) :
    step s = .next (((s.withInputs rest).present sp).sendCommand 0x55#8) :=
  (step_start hs hi).trans (execUnlock_idle (s := (s.withInputs rest).present sp) hs)

/-- Settles O22: `step_start` and the equation of each row of the command table; `start_of_leaves_idle`. -/
theorem startTransition : Obligations.StartTransition := by
  refine ⟨?start, fun s t => start_of_leaves_idle⟩
  case start =>
    intro s c sp rest hs hi u sent
    have hstep : step s = exec (decodeCmd c) u := step_start hs hi
    refine ⟨?readUnlock, ?writeMissing, ?write, ?erase, ?illegal⟩
    case readUnlock =>
      rintro (rfl | rfl)
      · exact hstep.trans (execRead_idle (s := u) hs)
      · exact step_start_unlock hs hi
    case writeMissing =>
      rintro rfl hsrc hcheck
      exact hstep.trans (execWrite_missing (s := u) hs hsrc hcheck)
    case write =>
      rintro rfl hpass
      exact hstep.trans (execWrite_idle (s := u) hs hpass)
    case erase =>
      rintro rfl
      exact hstep.trans (execErase_idle (s := u) hs)
    case illegal =>
      intro hc
      rw [hstep, decodeCmd_of_notACommand hc]
      exact execCmdIllegal_idle (s := u) hs c

/-! ### The command-byte transition (R142) -/

/-- Settles O23, by whether the byte was written, then by the command. -/
theorem commandByteTransition : Obligations.CommandByteTransition := by
  intro s a rest hs hi
  have hanswer := step_tx_sendCmd hs hi
  refine ⟨fun h => hanswer.trans (commandByteAnswer_short (s := s.withInputs rest) h), fun h => ?written⟩
  case written =>
    have hstep := hanswer.trans (commandByteAnswer_written (s := s.withInputs rest) h)
    rw [TxAnswer.delivered_of_written_one h]
    exact ⟨fun hc => hstep.trans (dispatchCommand_read hc),
      fun hc hcheck hsrc => hstep.trans (dispatchCommand_missing hc hcheck hsrc),
      fun hc hpass => hstep.trans (dispatchCommand_write hc hpass),
      fun hc => hstep.trans (dispatchCommand_unlock hc)⟩

/-! ### UNLOCK as a whole (R146) -/

/-- A run of one step is that step, however it ends. -/
theorem core_run_one (M : Host.Core) (s : M.State) : M.run 1 s = M.step s := by
  rw [Host.Core.run]
  cases M.step s <;> rfl

/-- The second of the two steps is the answer to the command byte, in the state that waits for it. -/
theorem run_start_unlock {s : State} {sp : Bool} {a : TxAnswer} {rest : List Input} (hs : s.fsm = .idle)
    (hi : s.env.inputs = .start 0x55#8 sp :: .tx a :: rest) :
    Sys2Proof.core.run 2 s = commandByteAnswer a (((s.withInputs rest).present sp).sendCommand 0x55#8) := by
  have hfirst := step_start_unlock hs hi
  have hsecond := step_tx_sendCmd (s := ((s.withInputs (.tx a :: rest)).present sp).sendCommand 0x55#8) rfl rfl
  exact (run_next 1 hfirst).trans ((core_run_one Sys2Proof.core _).trans hsecond)

/-- Settles O24: a written byte ends the run normally; any other answer is the fault of R142. -/
theorem unlockSendsOneByteAndEnds : Obligations.UnlockSendsOneByteAndEnds := by
  intro s sp a rest hs hi
  rw [run_start_unlock hs hi]
  refine ⟨fun h => ?written, fun h => ?short⟩
  case written =>
    exact ⟨_, (commandByteAnswer_written h).trans (dispatchCommand_unlock rfl), rfl, rfl, rfl, List.append_assoc ..,
      rfl, rfl⟩
  case short =>
    exact ⟨_, _, commandByteAnswer_short h, rfl, rfl, rfl, List.append_assoc .., rfl⟩

end Sys2Proof.Machine

/-! PROOFS. The Read session (42_read_session.md): the receive transition, the store, and the session as a whole. The
idea: a round of the session is two steps, a receive and a store, that append one group's decode to the sink and count
its bytes (`State.Stores`); the groups' decodes join to the image's, since each group is even. -/

namespace Sys2Proof.Machine

/-! ### The receive transition (R162, R163) -/

/-- Settles O25: `frameAnswer` by parity, then `decodeAndStore` by the mode. -/
theorem receiveTransition : Obligations.ReceiveTransition := by
  intro s rest hs hdec
  refine ⟨fun k hi => ⟨_, step_rx_rdRecv hs hi⟩, ?group⟩
  case group =>
    intro n hi g u
    have hanswer : step s = frameAnswer (.group n) (s.withInputs rest) := step_rx_rdRecv hs hi
    have hstep (heven : g.length % 2 = 0) : step s = decodeAndStore g u :=
      hanswer.trans (frameAnswer_even (s := s.withInputs rest) heven)
    refine ⟨fun hodd => hanswer.trans (frameAnswer_odd (s := s.withInputs rest) hodd),
      fun heven hm hd => (hstep heven).trans (decodeAndStore_strict (s := u) hm hd), fun heven hm => ?stored⟩
    case stored =>
      refine ⟨packNibbles (g.map decDigit), overwrite s.frame g, overwrite s.chunk (packNibbles (g.map decDigit)),
        decodeFrame_eq_pack g heven, take_overwrite _ _, take_overwrite _ _, ?_⟩
      rw [hstep heven, decodeAndStore_admitted (s := u) hs hm]
      simp [State.storeFrame, State.issue, u, hdec]

/-! ### The store (R164) -/

/-- The bytes appended follow everything the store held (R54). -/
theorem Memory.read_append_inside (m : Memory) (bs : List Byte) {j : Nat} (h : j < bs.length) :
    Memory.read (Memory.append m bs) (Memory.endAddr m + j) = bs[j]? :=
  Memory.read_writeRun_inside m _ bs h

theorem Memory.read_append_outside (m : Memory) (bs : List Byte) {x : Nat}
    (h : x < Memory.endAddr m ∨ Memory.endAddr m + bs.length ≤ x) :
    Memory.read (Memory.append m bs) x = Memory.read m x :=
  Memory.read_writeRun_outside m _ bs h

/-- How many bytes of the chunk `v` are in the sink when its append is answered (R54). -/
def SinkAnswer.stored (a : SinkAnswer) (v : List Byte) : Nat :=
  match a with
  | .ok => v.length
  | .err m => min m v.length

theorem SinkAnswer.stored_le (a : SinkAnswer) (v : List Byte) : a.stored v ≤ v.length := by
  cases a with
  | ok => exact le_rfl
  | err m => exact min_le_right m v.length

/-- The answer appends a first part of the chunk, whichever way it ends the transition. -/
theorem storeAnswer_sink (a : SinkAnswer) (s : State) :
    (storeAnswer a s).env.sink = Memory.append s.env.sink (s.chunkBytes.take (a.stored s.chunkBytes)) := by
  cases a with
  | ok =>
    rw [SinkAnswer.stored, List.take_length]
    rcases Nat.lt_or_ge s.nextOffset.toNat s.cfg.chipSize with hlt | hge
    · rw [storeAnswer_loop hlt]
      rfl
    · rw [storeAnswer_done hge]
      rfl
  | err m =>
    rw [SinkAnswer.stored, ← List.take_eq_take_min]
    rfl

/-- In RD_STORE the new count does not wrap (R24). -/
theorem State.Inv.nextOffset_toNat {s : State} (hs : s.Inv) (h : s.fsm = .rdStore) :
    s.nextOffset.toNat = s.offset.toNat + s.chunkLen.toNat :=
  (hs.live h (by decide)).nextOffset_toNat (hs.offset_lt (.inr h))

/-- Settles O26: the sink by `storeAnswer_sink`, the rest by the answer and the loop test. -/
theorem storeCompleteTransition : Obligations.StoreCompleteTransition := by
  intro s a rest hs hi _ e nOff
  have hsink := storeAnswer_sink a (s.withInputs rest)
  have hlen : (s.chunkBytes.take (a.stored s.chunkBytes)).length = a.stored s.chunkBytes :=
    List.length_take_of_le (a.stored_le s.chunkBytes)
  refine ⟨storeAnswer a (s.withInputs rest), a.stored s.chunkBytes, step_sink hs hi, a.stored_le s.chunkBytes,
    fun j hj => ?inside, fun x hx => ?outside, ⟨?ok, ?err⟩, fun hinv => hinv.nextOffset_toNat hs⟩
  case inside =>
    rw [hsink, ← List.getElem?_take_of_lt hj]
    exact Memory.read_append_inside _ _ (hlen.symm ▸ hj)
  case outside =>
    rw [hsink]
    exact Memory.read_append_outside _ _ (hlen.symm ▸ hx)
  case ok =>
    rintro rfl
    refine ⟨rfl, fun hge => ?_, fun hlt => ?_⟩
    · rw [storeAnswer_done (s := s.withInputs rest) hge]
      rfl
    · rw [storeAnswer_loop (s := s.withInputs rest) hlt]
      rfl
  case err =>
    rintro m rfl
    exact ⟨rfl, rfl⟩

/-- The chunk register holds all `chunk_len` bytes (R27). -/
theorem State.Inv.length_chunkBytes {s : State} {p : Phase} (hs : s.Inv) (h : s.fsm = p)
    (hp : p ≠ .done ∧ p ≠ .fault) : s.chunkBytes.length = s.chunkLen.toNat := by
  have hu := hs.live h hp
  exact List.length_take_of_le (hu.chunk_length.symm ▸ hu.chunkLen_le)

/-- Settles O27: the count is past CHIP_SIZE, so the store ends the session, and it appends the chunk whole. -/
theorem overshootIsStoredWhole : Obligations.OvershootIsStoredWhole := by
  intro s rest hinv hs hi hover
  have hcount := hinv.nextOffset_toNat hs
  have hle := (hinv.live hs (by decide)).nextOffset_le (hinv.offset_lt (.inr hs))
  have hge : s.cfg.chipSize ≤ s.nextOffset.toNat := by omega
  have hstep := (step_sink hs hi).trans (congrArg _ (storeAnswer_done (s := s.withInputs rest) hge))
  refine ⟨_, hstep, rfl, rfl, hcount, ?above, hle, fun j hj => ?chunk, rfl⟩
  case above =>
    change s.cfg.chipSize + 1 ≤ s.nextOffset.toNat
    omega
  case chunk =>
    have hj' : j < s.chunkBytes.length := (hinv.length_chunkBytes hs (by decide)).symm ▸ hj
    exact (Memory.read_append_inside s.env.sink s.chunkBytes hj').trans (List.getElem?_take_of_lt hj)

/-! ### One round of the session -/

/-- The bytes of an even-length frame and of what follows it are packed apart. -/
theorem packNibbles_append : ∀ xs ys : List Nibble, xs.length % 2 = 0 →
    packNibbles (xs ++ ys) = packNibbles xs ++ packNibbles ys
  | [], _, _ => rfl
  | [_], _, h => by simp at h
  | hi :: lo :: xs, ys, h => by
    have ih := packNibbles_append xs ys (by simpa [Nat.add_assoc] using h)
    simp [packNibbles, ih]

/-- The group a device sends next is taken whole when the request admits its length. -/
theorem State.rxGroup_of_append {s : State} {g more : List Byte} {max : Nat} (hrx : s.env.rxStream = g ++ more)
    (hg : g.length ≤ max) : s.rxGroup max g.length = g := by
  rw [State.rxGroup, hrx, min_eq_left hg, List.take_left]

theorem State.takeRx_rxStream_of_append {s : State} {g more : List Byte} {max : Nat}
    (hrx : s.env.rxStream = g ++ more) (hg : g.length ≤ max) : (s.takeRx max g.length).env.rxStream = more := by
  rw [State.takeRx_env, hrx, min_eq_left hg, List.drop_left]

/-- Between `s` and `t` the chunk `c` was stored: it is in the sink and counted, and the loop test has said how the round
ends. In `t` the device still has `more` to send, and `rest` is presented next. -/
structure State.Stores (s : State) (c more : List Byte) (rest : List Input) (t : State) : Prop where
  inv : t.Inv
  cfg : t.cfg = s.cfg
  offset : t.offset.toNat = s.offset.toNat + c.length
  sink : t.env.sink = Memory.append s.env.sink c
  rxStream : t.env.rxStream = more
  inputs : t.env.inputs = rest
  loops : t.offset.toNat < s.cfg.chipSize → t.fsm = .rdRecv
  ends : s.cfg.chipSize ≤ t.offset.toNat → t.fsm = .done ∧ t.status = .ok

/-- The state that has received the group `g` and holds it. -/
def State.receiveGroup (s : State) (g : List Byte) (rest : List Input) : State :=
  ((s.withInputs rest).takeRx s.cfg.frameMax g.length).holdFrame g

/-- The receive step of a round: the group is held, and the append of its decode is out. -/
theorem step_receive_group {s : State} {g more : List Byte} {rest : List Input} (hs : s.Inv) (hfsm : s.fsm = .rdRecv)
    (hm : s.cfg.decodeMode = .permissive) (heven : g.length % 2 = 0) (hg : g.length ≤ s.cfg.frameMax)
    (hrx : s.env.rxStream = g ++ more) (hi : s.env.inputs = .rx (.group g.length) :: rest) :
    step s = .next ((s.receiveGroup g rest).issue (.memWrite (s.receiveGroup g rest).chunkBytes) .rdStore) := by
  have hu := ((hs.withInputs rest).live hfsm (by decide)).takeRx s.cfg.frameMax g.length
  have hgroup : (s.withInputs rest).rxGroup s.cfg.frameMax g.length = g := State.rxGroup_of_append hrx hg
  have hanswer := frameAnswer_even (s := s.withInputs rest) (n := g.length) (hgroup.symm ▸ heven)
  rw [State.withInputs_cfg, hgroup] at hanswer
  rw [step_rx_rdRecv hfsm hi, hanswer, decodeAndStore_admitted
    (s := (s.withInputs rest).takeRx s.cfg.frameMax g.length) hfsm (.inl hm), hu.storeFrame_eq_issue hg]
  rfl

/-- The store step of a round, by the loop test. -/
theorem step_store_chunk {u : State} {rest : List Input} (hu : u.Inv) (hfsm : u.fsm = .rdStore)
    (hi : u.env.inputs = .sink .ok :: rest) :
    ∃ t, step u = .next t ∧ u.Stores u.chunkBytes u.env.rxStream rest t := by
  have hcount : u.nextOffset.toNat = u.offset.toNat + u.chunkBytes.length := by
    rw [hu.nextOffset_toNat hfsm, hu.length_chunkBytes hfsm (by decide)]
  have hstep := step_sink hfsm hi
  have hinv := stepKeepsInvariant _ _ hu hstep
  refine ⟨_, hstep, ?_⟩
  rcases Nat.lt_or_ge u.nextOffset.toNat u.cfg.chipSize with hlt | hge
  · rw [storeAnswer_loop (s := u.withInputs rest) hlt] at hinv ⊢
    exact ⟨hinv, rfl, hcount, rfl, rfl, rfl, fun _ => rfl, fun h => absurd hlt h.not_gt⟩
  · rw [storeAnswer_done (s := u.withInputs rest) hge] at hinv ⊢
    exact ⟨hinv, rfl, hcount, rfl, rfl, rfl, fun h => absurd hge h.not_ge, fun _ => ⟨rfl, rfl⟩⟩

/-- A round is the two steps. -/
theorem run_round {s : State} {g more : List Byte} {rest : List Input} (hs : s.Inv) (hfsm : s.fsm = .rdRecv)
    (hm : s.cfg.decodeMode = .permissive) (heven : g.length % 2 = 0) (hg : g.length ≤ s.cfg.frameMax)
    (hrx : s.env.rxStream = g ++ more) (hi : s.env.inputs = .rx (.group g.length) :: .sink .ok :: rest) :
    ∃ t : State, (∀ k, Sys2Proof.core.run (k + 2) s = Sys2Proof.core.run k t) ∧
      s.Stores (packNibbles (g.map decDigit)) more rest t := by
  have hreceive := step_receive_group hs hfsm hm heven hg hrx hi
  obtain ⟨t, hstore, hstored⟩ := step_store_chunk (stepKeepsInvariant _ _ hs hreceive) rfl rfl
  have hu := ((hs.withInputs (.sink .ok :: rest)).live hfsm (by decide)).takeRx s.cfg.frameMax g.length
  have hchunk : (s.receiveGroup g (.sink .ok :: rest)).chunkBytes = packNibbles (g.map decDigit) :=
    hu.holdFrame_chunkBytes hg
  have hmore : ((s.withInputs (.sink .ok :: rest)).takeRx s.cfg.frameMax g.length).env.rxStream = more :=
    State.takeRx_rxStream_of_append hrx hg
  refine ⟨t, fun k => (run_next (k + 1) hreceive).trans (run_next k hstore), ?_⟩
  rw [← hchunk]
  exact { hstored with rxStream := hstored.rxStream.trans hmore }

/-! ### The whole session (R166, R167) -/

/-- The answers of a session whose device sends `groups` and whose sink takes every append. -/
def readAnswers (groups : List (List Byte)) : List Input :=
  groups.flatMap fun g => [.rx (.group g.length), .sink .ok]

theorem readAnswers_cons (g : List Byte) (groups : List (List Byte)) :
    readAnswers (g :: groups) = .rx (.group g.length) :: .sink .ok :: readAnswers groups := rfl

/-- Once the session has ended, such answers are consumed and change nothing. -/
theorem run_done {s : State} (hs : s.fsm = .done) {rest : List Input} (groups : List (List Byte))
    (hi : s.env.inputs = readAnswers groups ++ rest) :
    Sys2Proof.core.run (2 * groups.length) s = .next (s.withInputs rest) := by
  induction groups generalizing s with
  | nil =>
    obtain rfl : s.env.inputs = rest := hi
    rfl
  | cons g groups ih =>
    rw [readAnswers_cons, List.cons_append, List.cons_append] at hi
    have hne : ∀ p : Phase, p ≠ .done → s.fsm ≠ p := fun p hp => hs ▸ hp.symm
    obtain ⟨-, hrx, -, -⟩ := answersToNoRequestAreDropped s _ (not_reserved hs rfl)
    have hfirst := hrx _ hi (hne _ (by decide)) (hne _ (by decide))
    obtain ⟨-, -, hsink, -⟩ := answersToNoRequestAreDropped (s.withInputs (.sink .ok :: (readAnswers groups ++ rest)))
      _ (not_reserved hs rfl)
    have hsecond := hsink _ rfl (hne _ (by decide))
    exact (run_next _ hfirst).trans ((run_next _ hsecond).trans (ih hs rfl))

/-- A session whose remaining groups carry exactly the characters of the bytes still to come stores their decode and
ends, by induction on the groups. A group of no characters after the last byte finds the run ended. -/
theorem run_session {groups : List (List Byte)} {tail : List Byte} {rest : List Input} {s : State} (hs : s.Inv)
    (hfsm : s.fsm = .rdRecv) (hm : s.cfg.decodeMode = .permissive)
    (hgroups : ∀ g ∈ groups, g.length % 2 = 0 ∧ g.length ≤ s.cfg.frameMax)
    (hcount : 2 * s.offset.toNat + groups.flatten.length = 2 * s.cfg.chipSize)
    (hrx : s.env.rxStream = groups.flatten ++ tail) (hi : s.env.inputs = readAnswers groups ++ rest) :
    ∃ t : State, Sys2Proof.core.run (2 * groups.length) s = .next t ∧ t.fsm = .done ∧ t.status = .ok ∧
      t.offset.toNat = s.cfg.chipSize ∧
      t.env.sink = Memory.append s.env.sink (packNibbles (groups.flatten.map decDigit)) ∧
      t.env.rxStream = tail ∧ t.env.inputs = rest := by
  induction groups generalizing s with
  | nil =>
    have hlt := hs.offset_lt (.inl hfsm)
    simp only [List.flatten_nil, List.length_nil] at hcount
    omega
  | cons g groups ih =>
    obtain ⟨⟨heven, hg⟩, hgroups'⟩ := List.forall_mem_cons.1 hgroups
    rw [List.flatten_cons, List.length_append] at hcount
    rw [List.flatten_cons, List.append_assoc] at hrx
    rw [readAnswers_cons, List.cons_append, List.cons_append] at hi
    obtain ⟨u, hrun, hround⟩ := run_round hs hfsm hm heven hg hrx hi
    have hoffset := hround.offset
    rw [length_packNibbles, List.length_map] at hoffset
    have hsplit : packNibbles ((g :: groups).flatten.map decDigit) =
        packNibbles (g.map decDigit) ++ packNibbles (groups.flatten.map decDigit) := by
      rw [List.flatten_cons, List.map_append, packNibbles_append _ _ (by rw [List.length_map, heven])]
    rw [hsplit, ← Memory.append_append (hs.live hfsm (by decide)).stores.1, ← hround.sink, ← hround.cfg]
    rcases Nat.lt_or_ge u.offset.toNat s.cfg.chipSize with hlt | hge
    · obtain ⟨t, ht, hend⟩ := ih hround.inv (hround.loops hlt) (hround.cfg ▸ hm) (hround.cfg ▸ hgroups')
        (by rw [hround.cfg]; omega) hround.rxStream hround.inputs
      exact ⟨t, (hrun _).trans ht, hend⟩
    · obtain ⟨hdone, hok⟩ := hround.ends hge
      have hnil : groups.flatten = [] := List.eq_nil_of_length_eq_zero (by omega)
      refine ⟨u.withInputs rest, (hrun _).trans (run_done hdone groups hround.inputs), hdone, hok, ?total, ?sink,
        ?stream, rfl⟩
      case total => rw [State.withInputs_offset, hround.cfg]; omega
      case sink => rw [hnil]; rfl
      case stream => rw [State.withInputs_env, hround.rxStream, hnil]; rfl

/-- Settles O55: `run_session` from a count of 0. -/
theorem readSessionStoresTheWholeImage : Obligations.ReadSessionStoresTheWholeImage := by
  intro s groups tail rest hs hfsm hzero hm hgroups hcount hrx hi
  obtain ⟨t, ht, hdone, hok, htotal, hsink, hstream, hinputs⟩ :=
    run_session hs hfsm hm hgroups (by simpa [hzero] using hcount) hrx hi
  exact ⟨t, _, ht, hdone, hok, htotal, decodeFrame_eq_pack _ (by rw [hcount, Nat.mul_mod_right]), hsink, hstream,
    hinputs⟩

end Sys2Proof.Machine

/-! PROOFS. The Write session (43_write_session.md): the header, fetch and send transitions, and the session as a whole.
The idea: a round of the session is three steps, a header, a fetch and a send, that read the source at the header's address
and send one whole chunk that begins with what was read (`State.ServesChunk`); the session's chunks then match its addresses
one for one, and where no read is short the chunk is what was read. -/

namespace Sys2Proof.Machine

/-! ### The header transition (R181, R182) -/

/-- Settles O16: the source read or the normal end, from the state with `addr` written. -/
theorem headerInstructionsComplete : Obligations.HeaderInstructionsComplete := fun a s hs =>
  ⟨⟨State.issue { s with addr := a } (.memRead a s.cfg.bufferSize) .wrFetch, execHdrServe_wrHdr hs a, rfl,
      .of_env_eq rfl⟩,
    ⟨State.enterDone { s with addr := a } .ok, execHdrEnd_wrHdr hs a, rfl, .of_env_eq rfl⟩⟩

/-- The header's value in either byte order (R56). -/
theorem toNat_assembleHeader (o : AddrOrder) (h0 h1 : Byte) :
    (assembleHeader o h0 h1).toNat =
      match o with
      | .le => h1.toNat * 256 + h0.toNat
      | .be => h0.toNat * 256 + h1.toNat := by
  have happend (hi lo : Byte) : (hi ++ lo : Half).toNat = hi.toNat * 256 + lo.toNat := by
    rw [BitVec.toNat_append, ← Nat.shiftLeft_add_eq_or_of_lt lo.isLt, Nat.shiftLeft_eq]
  cases o with
  | le => exact happend h1 h0
  | be => exact happend h0 h1

/-- The state that has received a header and holds none of it yet; the device still has `more` to send. -/
def State.receiveHeader (s : State) (more : List Byte) (rest : List Input) : State :=
  { s with env := { s.env with inputs := rest, rxStream := more } }

/-- The state that has received the address `a` and waits for the source's bytes there. -/
def State.serveHeader (s : State) (a : Half) (more : List Byte) (rest : List Input) : State :=
  State.issue { s.receiveHeader more rest with addr := a } (.memRead a s.cfg.bufferSize) .wrFetch

section
variable {s : State} {n : Nat} {a : Half} {more : List Byte} {rest : List Input}

/-- A header that the device sends whole is read as its value. -/
theorem step_header (hs : s.fsm = .wrHdr) (hn : 2 ≤ n) (hi : s.env.inputs = .rx (.group n) :: rest)
    (hrx : s.env.rxStream = splitHeader s.cfg.addrOrder a ++ more) :
    step s = exec (classifyHeader s.cfg a) (s.receiveHeader more rest) := by
  obtain ⟨h0, h1, hsplit⟩ := List.length_eq_two.1 (Laws.length_splitHeader s.cfg.addrOrder a)
  rw [hsplit] at hrx
  exact stepRunsReceivedHeader s n h0 h1 more rest _ hs hi hn hrx (hsplit ▸ decodeAs_splitHeader s.cfg a)

theorem step_header_serve (hs : s.fsm = .wrHdr) (hn : 2 ≤ n) (hi : s.env.inputs = .rx (.group n) :: rest)
    (hrx : s.env.rxStream = splitHeader s.cfg.addrOrder a ++ more) (ha : a.toNat < s.cfg.chipSize) :
    step s = .next (s.serveHeader a more rest) := by
  rw [step_header hs hn hi hrx, classifyHeader_of_lt ha]
  exact execHdrServe_wrHdr (s := s.receiveHeader more rest) hs a

theorem step_header_end (hs : s.fsm = .wrHdr) (hn : 2 ≤ n) (hi : s.env.inputs = .rx (.group n) :: rest)
    (hrx : s.env.rxStream = splitHeader s.cfg.addrOrder a ++ more) (ha : s.cfg.chipSize ≤ a.toNat) :
    step s = .next (State.enterDone { s.receiveHeader more rest with addr := a } .ok) := by
  rw [step_header hs hn hi hrx, classifyHeader_of_le ha]
  exact execHdrEnd_wrHdr (s := s.receiveHeader more rest) hs a

/-- A group of fewer than two bytes is all that the answer takes from the device: the request's size cuts nothing off. -/
theorem State.takeRx_of_short (h : min n s.env.rxStream.length < 2) :
    s.takeRx 2 n = { s with env := { s.env with rxStream := s.env.rxStream.drop n } } := by
  have hdrop : s.env.rxStream.drop (min n 2) = s.env.rxStream.drop n := by
    rcases Nat.le_total n 2 with hn | hn
    · rw [Nat.min_eq_left hn]
    · rw [List.drop_of_length_le (by omega), List.drop_of_length_le (by omega)]
  rw [State.takeRx, hdrop]

theorem State.length_rxGroup_of_short (h : min n s.env.rxStream.length < 2) :
    (s.rxGroup 2 n).length = min n s.env.rxStream.length := by
  rw [State.rxGroup, List.length_take]
  omega

theorem step_header_short (hs : s.fsm = .wrHdr) (hi : s.env.inputs = .rx (.group n) :: rest)
    (h : min n s.env.rxStream.length < 2) :
    step s = .next ((s.receiveHeader (s.env.rxStream.drop n) rest).raise
      (.shortHeader (min n s.env.rxStream.length))) := by
  have hlen : ((s.withInputs rest).rxGroup 2 n).length = min n s.env.rxStream.length :=
    State.length_rxGroup_of_short (s := s.withInputs rest) h
  rw [step_rx_wrHdr hs hi, headerAnswer_short (hlen.symm ▸ h), hlen, State.takeRx_of_short (s := s.withInputs rest) h]
  rfl

end

/-- Settles O28, by the answer, then by the length of the group, then by the header's class. -/
theorem headerTransition : Obligations.HeaderTransition := by
  intro s rest hs
  refine ⟨fun k hi => ⟨_, step_rx_wrHdr hs hi⟩, fun n hi h => step_header_short hs hi h, ?header⟩
  case header =>
    intro n h0 h1 more hi hn hst
    have hrx : s.env.rxStream = splitHeader s.cfg.addrOrder (assembleHeader s.cfg.addrOrder h0 h1) ++ more := by
      rw [splitHeader_assembleHeader, hst]
      rfl
    exact ⟨assembleHeader s.cfg.addrOrder h0 h1, toNat_assembleHeader _ h0 h1,
      fun hlt => step_header_serve hs hn hi hrx hlt, fun hge => step_header_end hs hn hi hrx hge⟩

/-! ### Fetch, then encode and send (R184, R185) -/

theorem State.fillBytes_pad {s : State} {v : Byte} (h : s.cfg.shortReadPolicy = .pad v) (k : Nat) :
    s.fillBytes k = some (List.replicate (s.cfg.bufferSize - k) v) := by
  rw [State.fillBytes, h]

/-- Every policy but Fail fills every chunk, and every policy one that was read whole. -/
theorem State.exists_fillBytes {s : State} {k : Nat}
    (h : s.cfg.shortReadPolicy ≠ .fail ∨ k = s.cfg.bufferSize) : ∃ fill, s.fillBytes k = some fill := by
  refine Option.ne_none_iff_exists'.1 fun hnone => ?_
  obtain ⟨hfail, hlt⟩ := (s.fillBytes_eq_none_iff k).1 hnone
  exact h.elim (fun hp => hp hfail) hlt.ne

/-- A whole chunk's frame is sent uncut. -/
theorem State.frameBytes_sendChunk {s : State} {c : List Byte} (hc : c.length = s.cfg.bufferSize) (n : Nat) :
    (s.sendChunk c n).frameBytes = encodeChunk c :=
  List.take_of_length_le (length_encodeChunk_eq_frameMax hc).le

theorem sendChunk_of_whole {s : State} {c : List Byte} (hc : c.length = s.cfg.bufferSize) (n : Nat) :
    s.sendChunk c n = (s.holdChunk c n).issue (.txSend (encodeChunk c)) .wrSend := by
  have hframe : (s.holdChunk c n).frameBytes = encodeChunk c := State.frameBytes_sendChunk hc n
  rw [sendChunk_eq_issue, hframe]

/-- Settles O29, by the answer, then by whether the policy fills the chunk. -/
theorem fetchTransition : Obligations.FetchTransition := by
  intro s rest hs d u
  refine ⟨fun hi => step_src hs hi, fun hi hfail hlt => ?unfilled, fun hi hp => ?filled⟩
  case unfilled =>
    have hnone : u.fillBytes u.fetched.length = none := (u.fillBytes_eq_none_iff _).2 ⟨hfail, hlt⟩
    exact (step_src hs hi).trans (congrArg _ (fetchAnswer_unfilled hnone))
  case filled =>
    obtain ⟨fill, hfill⟩ : ∃ fill, u.fillBytes u.fetched.length = some fill := State.exists_fillBytes hp
    have hwhole := State.length_filled hfill
    refine ⟨fill, u.drawsFor u.fetched.length, hwhole, fun v hv => ?pad, ?sent⟩
    case pad => exact Option.some.inj (hfill.symm.trans (State.fillBytes_pad (s := u) hv _))
    case sent =>
      exact (step_src hs hi).trans (congrArg _ ((fetchAnswer_filled hfill).trans (sendChunk_of_whole hwhole _)))

/-! ### Send-complete (R186) -/

/-- Settles O31, by whether the whole frame was written. -/
theorem sendCompleteTransition : Obligations.SendCompleteTransition := fun s _ rest hs hi =>
  ⟨fun h => (step_tx_wrSend hs hi).trans (congrArg _ (sendAnswer_written (s := s.withInputs rest) h)),
    fun h => (step_tx_wrSend hs hi).trans (congrArg _ (sendAnswer_short (s := s.withInputs rest) h))⟩

/-! ### One round of the session -/

/-- The chunk `c` serves the address `a`: it is whole and begins with the source's bytes at `a` (R183, R184). -/
structure State.ServesChunk (s : State) (a : Half) (c : List Byte) : Prop where
  whole : c.length = s.cfg.bufferSize
  reads : s.readSource a s.cfg.bufferSize <+: c

/-- Where the read is not short, the chunk is the source's bytes. -/
theorem State.ServesChunk.eq_readSource {s : State} {a : Half} {c : List Byte} (h : s.ServesChunk a c)
    (hfull : (s.readSource a s.cfg.bufferSize).length = s.cfg.bufferSize) : c = s.readSource a s.cfg.bufferSize :=
  (h.reads.eq_of_length (hfull.trans h.whole.symm)).symm

/-- Unless the policy is Fail, the fetch step sends a chunk that serves `addr`. -/
theorem step_fetch_serves {s : State} {rest : List Input} (hs : s.fsm = .wrFetch)
    (hp : s.cfg.shortReadPolicy ≠ .fail) (hi : s.env.inputs = .src .data :: rest) :
    ∃ c n, s.ServesChunk s.addr c ∧ step s = .next ((s.withInputs rest).sendChunk c n) := by
  obtain ⟨fill, hfill⟩ := State.exists_fillBytes (s := s.withInputs rest) (k := (s.withInputs rest).fetched.length)
    (.inl hp)
  exact ⟨_, _, ⟨State.length_filled hfill, List.prefix_append _ _⟩,
    (step_src hs hi).trans (congrArg _ (fetchAnswer_filled hfill))⟩

/-- The state that has sent the chunk `c` whole and waits for the next header. -/
def State.chunkSent (s : State) (c : List Byte) (n : Nat) (rest : List Input) : State :=
  (((s.sendChunk c n).withInputs rest).deliver (encodeChunk c)).issue (.rxRecv 2) .wrHdr

/-- The send step of a round, when the device takes the whole frame of a whole chunk. -/
theorem step_sendChunk {s : State} {c : List Byte} {rest : List Input} (hc : c.length = s.cfg.bufferSize) (n : Nat)
    (hi : s.env.inputs = .tx (.written s.cfg.frameMax) :: rest) :
    step (s.sendChunk c n) = .next (s.chunkSent c n rest) := by
  have hlen := length_encodeChunk_eq_frameMax hc
  have hbytes : ((s.sendChunk c n).withInputs rest).frameBytes = encodeChunk c := State.frameBytes_sendChunk hc n
  have hwritten : (TxAnswer.written s.cfg.frameMax).response ((s.sendChunk c n).withInputs rest).frameBytes =
      .written s.cfg.frameMax := by
    rw [hbytes, TxAnswer.response, hlen, min_self]
  have hdelivered : (TxAnswer.written s.cfg.frameMax).delivered (encodeChunk c) = encodeChunk c :=
    List.take_of_length_le hlen.le
  rw [step_tx_wrSend (s := s.sendChunk c n) rfl hi, sendAnswer_written hwritten, hbytes, hdelivered]
  rfl

/-- The fetch and the send of a round. -/
theorem run_fetch_send {s : State} {rest : List Input} (hs : s.fsm = .wrFetch) (hp : s.cfg.shortReadPolicy ≠ .fail)
    (hi : s.env.inputs = .src .data :: .tx (.written s.cfg.frameMax) :: rest) :
    ∃ c n, s.ServesChunk s.addr c ∧
      ∀ k, Sys2Proof.core.run (k + 2) s = Sys2Proof.core.run k (s.chunkSent c n rest) := by
  obtain ⟨c, n, hserves, hfetch⟩ := step_fetch_serves hs hp hi
  have hsend := step_sendChunk (s := s.withInputs (.tx (.written s.cfg.frameMax) :: rest)) hserves.whole n rfl
  exact ⟨c, n, hserves, fun k => (run_next (k + 1) hfetch).trans (run_next k hsend)⟩

/-- Between `s` and `t` the address `a` was served: the source was read there, one chunk was sent, and `t` waits for the
next header. In `t` the device still has `more` to send, and `rest` is presented next. -/
structure State.ServesAddr (s : State) (a : Half) (more : List Byte) (rest : List Input) (t : State) : Prop where
  fsm : t.fsm = .wrHdr
  cfg : t.cfg = s.cfg
  source : t.env.source = s.env.source
  rxStream : t.env.rxStream = more
  inputs : t.env.inputs = rest
  reads : t.trace.filterMap Event.readAddr? = s.trace.filterMap Event.readAddr? ++ [a]
  sent : ∃ c, s.ServesChunk a c ∧ t.env.txSent = s.env.txSent ++ encodeChunk c

/-- The answers of one round: a header, the source's data, and a whole frame taken. -/
def roundAnswers (p : Params) : List Input := [.rx (.group 2), .src .data, .tx (.written p.frameMax)]

/-- A round is the three steps. -/
theorem run_write_round {s : State} {a : Half} {more : List Byte} {rest : List Input} (hs : s.fsm = .wrHdr)
    (hp : s.cfg.shortReadPolicy ≠ .fail) (ha : a.toNat < s.cfg.chipSize)
    (hrx : s.env.rxStream = splitHeader s.cfg.addrOrder a ++ more)
    (hi : s.env.inputs = roundAnswers s.cfg ++ rest) :
    ∃ t : State, (∀ k, Sys2Proof.core.run (k + 3) s = Sys2Proof.core.run k t) ∧ s.ServesAddr a more rest t := by
  have hheader := step_header_serve hs le_rfl hi hrx ha
  obtain ⟨c, n, hserves, hrun⟩ := run_fetch_send
    (s := s.serveHeader a more (.src .data :: .tx (.written s.cfg.frameMax) :: rest)) rfl hp rfl
  refine ⟨_, fun k => (run_next (k + 2) hheader).trans (hrun k),
    { fsm := rfl, cfg := rfl, source := rfl, rxStream := rfl, inputs := rfl, reads := ?reads
      sent := ⟨c, ⟨hserves.whole, hserves.reads⟩, rfl⟩ }⟩
  case reads => simp [State.chunkSent, State.serveHeader, State.receiveHeader, Event.readAddr?]

/-! ### The whole session (R187) -/

/-- Between `s` and `t` the addresses `addrs` were served in turn, each by one whole chunk, and the session ended
normally on `last`. -/
structure State.EndsWriteSession (s : State) (addrs : List Half) (last : Half) (tail : List Byte) (rest : List Input)
    (t : State) : Prop where
  fsm : t.fsm = .done
  status : t.status = .ok
  addr : t.addr = last
  rxStream : t.env.rxStream = tail
  inputs : t.env.inputs = rest
  reads : t.trace.filterMap Event.readAddr? = s.trace.filterMap Event.readAddr? ++ addrs
  sent : ∃ chunks, List.Forall₂ s.ServesChunk addrs chunks ∧
    t.env.txSent = s.env.txSent ++ chunks.flatMap encodeChunk

/-- A session that has served the address `a` and then those of `addrs` has served them all. -/
theorem State.ServesAddr.trans_endsWriteSession {s u t : State} {a last : Half} {addrs : List Half}
    {more tail : List Byte} {rest rest' : List Input} (h : s.ServesAddr a more rest' u)
    (ht : u.EndsWriteSession addrs last tail rest t) : s.EndsWriteSession (a :: addrs) last tail rest t := by
  obtain ⟨c, hc, hsent⟩ := h.sent
  obtain ⟨chunks, hchunks, hsent'⟩ := ht.sent
  have hsame : ∀ b d, u.ServesChunk b d → s.ServesChunk b d := fun b d hd =>
    ⟨h.cfg ▸ hd.whole, by simpa only [State.readSource, h.cfg, h.source] using hd.reads⟩
  exact { ht with
    reads := by rw [ht.reads, h.reads, List.append_assoc, List.singleton_append]
    sent := ⟨c :: chunks, .cons hc (hchunks.imp hsame), by
      rw [hsent', hsent, List.append_assoc, List.flatMap_cons]⟩ }

/-- The session, by induction on the addresses below CHIP_SIZE. -/
theorem run_write_session {addrs : List Half} {last : Half} {tail : List Byte} {rest : List Input} {s : State}
    (hs : s.fsm = .wrHdr) (hp : s.cfg.shortReadPolicy ≠ .fail) (haddrs : ∀ a ∈ addrs, a.toNat < s.cfg.chipSize)
    (hlast : s.cfg.chipSize ≤ last.toNat)
    (hrx : s.env.rxStream =
      addrs.flatMap (splitHeader s.cfg.addrOrder) ++ (splitHeader s.cfg.addrOrder last ++ tail))
    (hi : s.env.inputs = addrs.flatMap (fun _ => roundAnswers s.cfg) ++ .rx (.group 2) :: rest) :
    ∃ t : State, Sys2Proof.core.run (3 * addrs.length + 1) s = .next t ∧ s.EndsWriteSession addrs last tail rest t := by
  induction addrs generalizing s with
  | nil =>
    refine ⟨_, run_next 0 (step_header_end hs le_rfl hi hrx hlast),
      { fsm := rfl, status := rfl, addr := rfl, rxStream := rfl, inputs := rfl, reads := ?reads
        sent := ⟨[], .nil, (List.append_nil _).symm⟩ }⟩
    case reads => simp [State.receiveHeader, Event.readAddr?]
  | cons a addrs ih =>
    obtain ⟨ha, haddrs'⟩ := List.forall_mem_cons.1 haddrs
    rw [List.flatMap_cons, List.append_assoc] at hrx hi
    obtain ⟨u, hrun, hround⟩ := run_write_round hs hp ha hrx hi
    obtain ⟨t, ht, hend⟩ := ih (s := u) hround.fsm (hround.cfg ▸ hp) (hround.cfg ▸ haddrs') (hround.cfg ▸ hlast)
      (hround.cfg ▸ hround.rxStream) (hround.cfg ▸ hround.inputs)
    exact ⟨t, (hrun _).trans ht, hround.trans_endsWriteSession hend⟩

section
variable {s : State} {addrs : List Half} {chunks : List (List Byte)}

/-- Each address is answered by FRAME_MAX characters, after a short read too. -/
theorem length_flatMap_encodeChunk (h : List.Forall₂ s.ServesChunk addrs chunks) :
    (chunks.flatMap encodeChunk).length = addrs.length * s.cfg.frameMax := by
  induction h with
  | nil => simp
  | cons hc _ ih =>
    rw [List.flatMap_cons, List.length_append, ih, length_encodeChunk_eq_frameMax hc.whole, List.length_cons,
      Nat.succ_mul, Nat.add_comm]

/-- Where no read is short, the chunks are exactly what was read. -/
theorem chunks_eq_map_readSource (h : List.Forall₂ s.ServesChunk addrs chunks)
    (hfull : ∀ a ∈ addrs, (s.readSource a s.cfg.bufferSize).length = s.cfg.bufferSize) :
    chunks = addrs.map fun a => s.readSource a s.cfg.bufferSize := by
  induction h with
  | nil => rfl
  | cons hc _ ih =>
    obtain ⟨hfirst, hothers⟩ := List.forall_mem_cons.1 hfull
    rw [List.map_cons, hc.eq_readSource hfirst, ih hothers]

end

/-- Settles O56: `run_write_session`, and what the chunks that serve the addresses encode to. -/
theorem writeSessionServesEveryHeader : Obligations.WriteSessionServesEveryHeader := by
  intro s addrs last tail rest _ hs hp haddrs hlast hrx hi
  rw [List.append_assoc] at hrx
  obtain ⟨t, ht, hend⟩ := run_write_session hs hp haddrs hlast hrx hi
  obtain ⟨chunks, hchunks, hsent⟩ := hend.sent
  refine ⟨t, ht, hend.fsm, hend.status, hend.addr, hend.rxStream, hend.inputs, hend.reads, ?length, fun hfull => ?bytes⟩
  case length => rw [hsent, List.length_append, length_flatMap_encodeChunk hchunks]
  case bytes =>
    rw [hsent, chunks_eq_map_readSource hchunks hfull, List.flatMap_map]
    rfl

end Sys2Proof.Machine

/-! PROOFS. The ends of a run (60_exceptions.md): every transition into FAULT is the fault entry, every transition into
DONE is the normal end, and an ended run has the exit code of its status. The idea: of the transitions `Moves` lists, the
ones that enter FAULT all apply `State.raise` to a state that differs from the first in its environment only, and the
ones that enter DONE all apply `State.enterDone`. -/

namespace Sys2Proof.Machine

/-! ### Fault entry (R203) -/

/-- A transition into FAULT writes no register before the fault entry: the answer it consumed reaches only the
environment. -/
theorem Moves.enters_fault {s t : State} (m : Moves s t) (hs : s.fsm ≠ .fault) (ht : t.fsm = .fault) :
    ∃ (e : Env) (f : BlockFault), t = State.raise { s with env := e } f := by
  cases m with
  | ignored | startIgnored => exact absurd ht hs
  | startFault | commandFault | frameFault | sinkFault | headerFault | fetchFault | sendFault => exact ⟨_, _, rfl⟩
  | _ => cases ht

/-- Only a transition enters FAULT, since a reset enters IDLE. -/
theorem step_enters_fault {s t : State} (h : step s = .next t) (hs : s.fsm ≠ .fault) (ht : t.fsm = .fault) :
    ∃ (e : Env) (f : BlockFault), t = State.raise { s with env := e } f := by
  rcases step_reset_or_move h with ⟨k, rest, -, rfl⟩ | ⟨rest, m⟩
  · cases ht
  · have hrest : (s.withInputs rest).fsm ≠ .fault := hs
    exact m.enters_fault hrest ht

/-- The fault entry leaves the parameters and the datapath registers alone, whatever the environment became. -/
theorem State.sameDatapath_raise (s : State) (e : Env) (f : BlockFault) :
    s.SameDatapath (State.raise { s with env := e } f) :=
  ⟨rfl, rfl, rfl, rfl, rfl, rfl, rfl, rfl, rfl⟩

/-- A step takes nothing away from the sink. -/
theorem step_sink_append {s t : State} (h : step s = .next t) : ∃ bs, t.env.sink = Memory.append s.env.sink bs := by
  rcases sinkGrowsOnlyByTheOutstandingAppend s t h with hkept | ⟨-, bs, -, happended⟩
  · exact ⟨[], hkept⟩
  · exact ⟨bs, happended⟩

/-- Settles O32: the registers are those of `State.raise`; what the ports show is what every step does to them. -/
theorem faultEntryIsPrecise : Obligations.FaultEntryIsPrecise := by
  intro s t h hs ht
  obtain ⟨bs, hsent, -⟩ := sentBytesAreAPrefixOfTheRequest s t h
  have hsink := step_sink_append h
  obtain ⟨e, f, rfl⟩ := step_enters_fault h hs ht
  exact ⟨⟨f, rfl, rfl⟩, rfl, s.sameDatapath_raise e f, ⟨bs, hsent⟩, hsink⟩

/-! ### Normal end (R204) -/

/-- The status with which a run ends normally out of `s`: OK after UNLOCK's byte (R142), the last store (R164) or an end
header (R182), NOT_IMPLEMENTED out of IDLE (R145). -/
def State.EndsWith (s : State) (st : Status) : Prop :=
  (st = .ok ∧ (s.fsm = .sendCmd ∧ s.cmd = 0x55#8 ∨ s.fsm = .rdStore ∨ s.fsm = .wrHdr)) ∨
    (st = .notImplemented ∧ s.fsm = .idle)

/-- A transition into DONE adds no event before the normal end. -/
theorem Moves.enters_done {s t : State} (m : Moves s t) (hs : s.fsm ≠ .done) (ht : t.fsm = .done) :
    ∃ u st, t = State.enterDone u st ∧ u.trace = s.trace ∧ s.EndsWith st := by
  cases m with
  | ignored | startIgnored => exact absurd ht hs
  | startErase _ h => exact ⟨_, _, rfl, rfl, .inr ⟨rfl, h⟩⟩
  | commandUnlock _ h hc => exact ⟨_, _, rfl, rfl, .inl ⟨rfl, .inl ⟨h, hc⟩⟩⟩
  | storeDone h => exact ⟨_, _, rfl, rfl, .inl ⟨rfl, .inr (.inl h)⟩⟩
  | headerEnd _ _ h => exact ⟨_, _, rfl, rfl, .inl ⟨rfl, .inr (.inr h)⟩⟩
  | _ => cases ht

/-- Settles O33: only a transition enters DONE, and `State.enterDone` sets `closed` and emits Close alone. -/
theorem normalEndClosesOnce : Obligations.NormalEndClosesOnce := by
  intro s t h hs ht
  rcases step_reset_or_move h with ⟨k, rest, -, rfl⟩ | ⟨rest, m⟩
  · cases ht
  · have hrest : (s.withInputs rest).fsm ≠ .done := hs
    obtain ⟨u, st, rfl, htrace, hend⟩ := m.enters_done hrest ht
    exact ⟨rfl, by simp [htrace], hend⟩

/-! ### The exit code (R212) -/

theorem State.ended_iff (s : State) : s.ended = true ↔ s.fsm = .done ∨ s.fsm = .fault := by
  simp [State.ended, State.isDone, State.isFault]

theorem Status.exitCode_ok : Status.exitCode .ok = some 0 := rfl

theorem Status.exitCode_notImplemented : Status.exitCode .notImplemented = some Config.eraseExitCode := rfl

/-- OK and NOT_IMPLEMENTED are no fault codes, so every fault code is reported as 1. -/
theorem Status.exitCode_of_fault_code {st : Status} (h : 16 ≤ st.code.toNat) : st.exitCode = some 1 := by
  have hok : st ≠ .ok := by rintro rfl; exact absurd h (by decide)
  have hstub : st ≠ .notImplemented := by rintro rfl; exact absurd h (by decide)
  rw [Status.exitCode, if_neg hok, if_neg hstub, if_pos h]

/-- Settles O39: the control invariant ties the fault codes to FAULT and leaves DONE the two normal results. -/
theorem exitCodeOfAnEndedRun : Obligations.ExitCodeOfAnEndedRun := by
  rintro s ⟨-, -, -, hfault, hdone, -⟩ hended
  rcases s.ended_iff.1 hended with h | h
  · rcases hdone h with hst | hst
    · simp [h, hst, Status.exitCode_ok]
    · simp [h, hst, Status.exitCode_notImplemented]
  · rw [if_pos h, Status.exitCode_of_fault_code (hfault.2 h)]

end Sys2Proof.Machine

/-! PROOFS. Reset (70_reset_and_hazards.md): from every state, reserved codes included, a presented reset is the reset
action. The idea: R230's values are the fields of `State.resetWith`; what an abandoned request may still have done is no
more than any step may do to the parameters, the inputs and the stores. -/

namespace Sys2Proof.Machine

/-- Only a step out of RD_STORE, where an append is outstanding, can change a byte of either store (R54, R55). -/
theorem step_sameBytes {s t : State} (h : step s = .next t) (hs : s.fsm ≠ .rdStore) : s.SameBytes t := by
  obtain ⟨-, hsource⟩ := parametersAndSourceAreFixed s t h
  have hsink : t.env.sink = s.env.sink := by
    rcases sinkGrowsOnlyByTheOutstandingAppend s t h with hkept | ⟨hstore, -⟩
    · exact hkept
    · exact absurd hstore hs
  exact ⟨fun a => by rw [hsink], fun a => by rw [hsource]⟩

/-- Settles O35: the registers are those of the reset action; the parameters, the inputs and the stores are what every
step makes of them. -/
theorem resetActionFromAnyState : Obligations.ResetActionFromAnyState := by
  intro s k rest hi
  have hstep : step s = .next ((s.withInputs rest).resetAction k) := step_reset hi
  obtain ⟨hcfg, -⟩ := parametersAndSourceAreFixed _ _ hstep
  have hinputs : ((s.withInputs rest).resetAction k).env.inputs = rest := by
    rw [step_inputs hstep, hi, List.tail_cons]
  exact ⟨_, hstep, rfl, rfl, rfl, rfl, rfl, rfl, List.not_mem_nil, hcfg, hinputs, step_sameBytes hstep⟩

end Sys2Proof.Machine
